-- ==== Sys2Proof/Word.lean ====
section
/-! DEFINITION. The word types of the SFE and the type `F` of its result registers.

Sources: spec/00_scope.md R8, R10, R14; spec/30_encoding.md R80, R100. -/

namespace Sys2Proof

/-- A byte of a sample, of a sensor register or of an immediate: 8 bits, bit 0 least significant (R10). -/
abbrev Byte := BitVec 8

/-- A command word `cmd` as DP's command port takes it: 16 bits, one length (R80). -/
abbrev Cmd := BitVec 16

/-- A value of the 32-bit latches `TICKS` and `EVTS` (R20). -/
abbrev Tick := BitVec 32

/-- Which numerics record `Cfg.NUM` an instance has (R8, R100): IEEE 754 binary32, which the spec
gives as the default, or another one, of which the spec fixes only that it exists. -/
inductive NumKind where
  | binary32
  | custom
  deriving DecidableEq, Repr

/-- An element of the format `Cfg.NUM.F` (R14): a binary32 bit pattern, or, for a numerics record other
than the default, a code of its element (any countable format can be numbered; log entry 5). -/
inductive F where
  | b32 (bits : BitVec 32)
  | custom (code : Nat)
  deriving DecidableEq, Repr

end Sys2Proof
end

