-- ==== Sys2Proof/Config.lean ====
section
/-! DEFINITION. The configuration record `Cfg` of spec/00_scope.md R8: what an instance fixes, the
constants FLEX fixes, and the free values (opaque constants, of which no proof can see a value). -/

namespace Sys2Proof

/-- The open part of `Cfg` (R8, R36): fixed for the life of an instance, written by no command.
Each field is the manual's field of the same name. -/
structure Cfg where
  /-- `NUM`, default binary32 (R8, R100). -/
  num : NumKind
  /-- `HT_RESET_SENTINEL`. -/
  htResetSentinel : Byte
  /-- `GY_ID_EXPECTED`. -/
  gyIdExpected : Byte
  /-- `SENS[0..3]`, degrees per second per count. -/
  sens : Vector Rat 4
  /-- `RANGE_DPS[0..3]`, degrees per second. -/
  rangeDps : Vector Rat 4
  /-- `DEG2RAD`, the rational the instance uses for π/180. -/
  deg2rad : Rat
  /-- `GY_TYPE_TAG` (R31). -/
  gyTypeTag : BitVec 32
  /-- `GY_SENSOR_ID`, given at construction (R31). -/
  gySensorId : BitVec 32
  /-- `GY_NAME` (R133). -/
  gyName : String
  /-- `BA_RDY_ALT`, a mask with one bit set (R93). -/
  baRdyAlt : Byte
  /-- `BA_RDY_TEMP`, a mask with one bit set (R93). -/
  baRdyTemp : Byte
  /-- `BA_ALT_BIT`, position of the mode bit of `CTRL_REG1` (R92). -/
  baAltBit : Fin 8
  /-- `BA_SBYB_BIT`, position of the standby/active bit (R92). -/
  baSbybBit : Fin 8
  /-- `BA_OST_BIT`, position of the one-shot trigger bit (R92). -/
  baOstBit : Fin 8
  /-- `BA_EVENT_MASK` (R189). -/
  baEventMask : Byte
  /-- `ALT_FRAC_HIGH`, default false (R90). -/
  altFracHigh : Bool
  /-- `PRES_PRECHECK_EFFECTIVE`, default false (R215, R216). -/
  presPrecheckEffective : Bool
  /-- `TEMP_PRECHECK_EFFECTIVE`, default true (R217). -/
  tempPrecheckEffective : Bool
  /-- `GY_AUTOINC` (R57). -/
  gyAutoinc : Byte
  /-- `GY_CR1_RESET` (R207). -/
  gyCr1Reset : Byte
  /-- `GY_CR1_RUN` (R207). -/
  gyCr1Run : Byte
  /-- `HT_ADDR`, `GY_ADDR`, `BA_ADDR`: 7-bit device addresses (R51). -/
  htAddr : BitVec 7
  gyAddr : BitVec 7
  baAddr : BitVec 7
  /-- `HT_CMD_RESET`, `HT_CMD_TEMP`, `HT_CMD_HUM`. -/
  htCmdReset : Byte
  htCmdTemp : Byte
  htCmdHum : Byte
  /-- `HT_REG_STATUS`. -/
  htRegStatus : Byte
  /-- `GY_WHO_AM_I`, `GY_CTRL_REG1`, `GY_STATUS`. -/
  gyWhoAmI : Byte
  gyCtrlReg1 : Byte
  gyStatus : Byte
  /-- `BA_STATUS`, `BA_OUT_P_MSB`, `BA_OUT_T_MSB`, `BA_CTRL_REG1`, `BA_PT_DATA_CFG`. -/
  baStatus : Byte
  baOutPMsb : Byte
  baOutTMsb : Byte
  baCtrlReg1 : Byte
  baPtDataCfg : Byte
  /-- `HT_SETTLE_MS`, `HT_CONV_MS`, `GY_SETTLE_MS`, milliseconds. -/
  htSettleMs : Nat
  htConvMs : Nat
  gySettleMs : Nat
  /-- The `sendStop` argument before a read, per device (R62, R66; N5 leaves it open). -/
  htStop : Bool
  gyStop : Bool
  baStop : Bool
  deriving DecidableEq, Repr

/-- A byte with exactly one bit set (R8: the ready masks). -/
def oneBitSet (m : Byte) : Bool :=
  decide (∃ b : Fin 8, m = (1#8 <<< b.val))

/-- A bit position of `CTRL_REG1` outside the oversample field 5:3 (R92). -/
def outsideOs (b : Fin 8) : Bool :=
  decide (b.val < 3 ∨ 5 < b.val)

/-- The laws R8, R24 and R92 put on `Cfg`: sensitivities and ranges positive, ranges ascending, ready
masks of one bit, the three bit positions distinct and outside 5:3. -/
def Cfg.lawful (c : Cfg) : Bool :=
  decide (0 < c.sens[0] ∧ 0 < c.sens[1] ∧ 0 < c.sens[2] ∧ 0 < c.sens[3])
    && decide (0 < c.rangeDps[0] ∧ c.rangeDps[0] < c.rangeDps[1] ∧ c.rangeDps[1] < c.rangeDps[2]
        ∧ c.rangeDps[2] < c.rangeDps[3])
    && oneBitSet c.baRdyAlt && oneBitSet c.baRdyTemp
    && outsideOs c.baAltBit && outsideOs c.baSbybBit && outsideOs c.baOstBit
    && decide (c.baAltBit ≠ c.baSbybBit ∧ c.baAltBit ≠ c.baOstBit ∧ c.baSbybBit ≠ c.baOstBit)

/-- The values spec/93_implementation_defined.md part B suggests (U1 to U7), for the tests and as the
evidence that a lawful configuration exists. No rule and no statement uses one of them. -/
def Cfg.suggested : Cfg where
  num := .binary32
  htResetSentinel := 0x3A
  gyIdExpected := 0xD7
  sens := #v[1/128, 1/64, 1/32, 1/16]
  rangeDps := #v[250, 500, 1000, 2000]
  deg2rad := 17453293 / 1000000000
  gyTypeTag := 4
  gySensorId := 0
  gyName := "FXAS21002C"
  baRdyAlt := 0x02
  baRdyTemp := 0x02
  baAltBit := 7
  baSbybBit := 0
  baOstBit := 1
  baEventMask := 0x07
  altFracHigh := false
  presPrecheckEffective := false
  tempPrecheckEffective := true
  gyAutoinc := 0x80
  gyCr1Reset := 0x40
  gyCr1Run := 0x0E
  htAddr := 0x40
  gyAddr := 0x21
  baAddr := 0x60
  htCmdReset := 0xFE
  htCmdTemp := 0xE3
  htCmdHum := 0xE5
  htRegStatus := 0xE7
  gyWhoAmI := 0x0C
  gyCtrlReg1 := 0x13
  gyStatus := 0x00
  baStatus := 0x00
  baOutPMsb := 0x01
  baOutTMsb := 0x04
  baCtrlReg1 := 0x26
  baPtDataCfg := 0x13
  htSettleMs := 15
  htConvMs := 25
  gySettleMs := 100
  htStop := true
  gyStop := true
  baStop := true

/-- A configuration together with the laws of R8. The default values of the fields only show that one exists. -/
structure LawfulCfg where
  cfg : Cfg := Cfg.suggested
  isLawful : cfg.lawful = true := by decide +kernel
  deriving Inhabited

/-- A numerics record other than binary32, over coded elements, with the laws R14 puts on every admitted `NUM`:
exactness, monotonicity, symmetry (log entry 5). The default values of the fields (the identity on rationals) only
show that one exists. -/
structure LawfulNum where
  fl : Rat → Nat := Encodable.encode
  val : Nat → Rat := fun k => (Encodable.decode k).getD 0
  /-- Exact on every `k/16` with `|k| < 2^20`. -/
  sixteenths : ∀ k : Int, k.natAbs < 2 ^ 20 → val (fl ((k : Rat) / 16)) = (k : Rat) / 16 := by simp
  /-- Exact on every `k/4` with `0 ≤ k < 2^20`. -/
  quarters : ∀ k : Nat, k < 2 ^ 20 → val (fl ((k : Rat) / 4)) = (k : Rat) / 4 := by simp
  /-- Exact on −999. -/
  sentinel : val (fl (-999)) = -999 := by simp
  /-- `fl` is monotone. -/
  monotone : ∀ q r : Rat, q ≤ r → val (fl q) ≤ val (fl r) := by intro q r h; simpa using h
  /-- `fl(−q) = −fl(q)`; `val` does not see the sign of a zero (R100 c). -/
  odd : ∀ q : Rat, val (fl (-q)) = -val (fl q) := by simp
  deriving Inhabited

/-! ## Free values

Opaque constants: nothing in Lean evaluates them, so what is proved holds whatever they are. -/

/-- The configuration of this instance: every OPEN field of R8 (DESIGN CHOICE: log entry 4). -/
opaque Config.openCfg : LawfulCfg

/-- The numerics record of an instance whose `NUM` is not binary32 (R100 g; log entry 5). -/
opaque Config.customNum : LawfulNum

/-- `val` of a binary32 pattern that is not finite: "undefined" (R100 d; log entry 6). -/
opaque Config.undefinedVal : BitVec 32 → Rat

/-- The `actualCount` of the i-th unforced draw for a request of `n` bytes, under the law of R64. -/
opaque Config.freeCount : Nat → (n : Nat) → Fin (n + 1)

/-- The byte `read()` returns at the i-th unforced draw (R58: any byte). -/
opaque Config.freeByte : Nat → Byte

/-- Whether `dataAvailable()` answers true at the i-th unforced draw (R40). -/
opaque Config.freeAvail : Nat → Bool

/-- What `monotonicTicks()` returns at the i-th unforced draw (R61, R257: any integer). -/
opaque Config.freeTicks : Nat → Nat

/-! ## Constants FLEX fixes (R8, R9: exact decimal rationals) -/

/-- `HT_C_MUL` = 175.72. -/
def Config.htCMul : Rat := 17572 / 100
/-- `HT_C_OFF` = 46.85. -/
def Config.htCOff : Rat := 4685 / 100
/-- `HT_H_MUL` = 125. -/
def Config.htHMul : Rat := 125
/-- `HT_H_OFF` = 6. -/
def Config.htHOff : Rat := 6
/-- `HT_DIV` = 65536. -/
def Config.htDiv : Rat := 65536
/-- `M_TO_FT` = 3.28084. -/
def Config.mToFt : Rat := 328084 / 100000
/-- `C_TO_F_MUL` = 9/5. -/
def Config.cToFMul : Rat := 9 / 5
/-- `C_TO_F_OFF` = 32. -/
def Config.cToFOff : Rat := 32
/-- `SENTINEL` = −999. -/
def Config.sentinel : Rat := -999
/-- `POLL_MAX` = 600. -/
def Config.pollMax : Nat := 600
/-- `POLL_SPACING_MS` = 1. -/
def Config.pollSpacingMs : Nat := 1
/-- `OS_SHIFT` = 3. -/
def Config.osShift : Nat := 3
/-- `OS_MASK` = 0x38. -/
def Config.osMask : Byte := 0x38
/-- `BA_RDY_PRES` = 0x04. -/
def Config.baRdyPres : Byte := 0x04

end Sys2Proof
end

