-- ==== Sys2Proof/Syntax.lean ====
section
/-! DEFINITION. The syntax: DP's command set (one constructor per row of spec/opcode_table.json), the
driver calls of agent ACQ (R99), and the assembler notation of R98. -/

namespace Sys2Proof

/-- The complete command set of DP: 20 commands (R84). `r` is `cmd[1:0]`, `n` is `cmd[7:0]` (R94). -/
inductive Instr where
  /-- HT.INITCHK (R111). -/
  | htInitchk
  /-- HT.TEMP (R112). -/
  | htTemp
  /-- HT.HUM (R113). -/
  | htHum
  /-- GY.BEGIN r (R131). -/
  | gyBegin (r : Nat)
  /-- GY.EVENT (R132). -/
  | gyEvent
  /-- GY.META (R133). -/
  | gyMeta
  /-- BA.ALT (R152). -/
  | baAlt
  /-- BA.PRES (R154). -/
  | baPres
  /-- BA.TEMP (R156). -/
  | baTemp
  /-- BA.TMO (R158). -/
  | baTmo
  /-- BA.ALTFT (R159). -/
  | baAltft
  /-- BA.TEMPF (R160). -/
  | baTempf
  /-- CR.MODEBAR (R182). -/
  | crModebar
  /-- CR.MODEALT (R183). -/
  | crModealt
  /-- CR.STANDBY (R184). -/
  | crStandby
  /-- CR.ACTIVE (R185). -/
  | crActive
  /-- CR.OSR n (R186). -/
  | crOsr (n : Nat)
  /-- CR.OSTCLR (R187). -/
  | crOstclr
  /-- CR.OSTSET (R188). -/
  | crOstset
  /-- CR.EVFLAGS (R189). -/
  | crEvflags
  deriving DecidableEq, Repr

/-- The four command families (R83): the high nibble of the opcode. -/
inductive Family where
  | ht
  | gy
  | ba
  | cr
  deriving DecidableEq, Repr

/-- The number of a family in the opcode's high nibble (R83). -/
def Family.code : Family → Nat
  | .ht => 0
  | .gy => 1
  | .ba => 2
  | .cr => 3

/-- The family a command belongs to (R83, R84). -/
def Instr.family : Instr → Family
  | .htInitchk | .htTemp | .htHum => .ht
  | .gyBegin _ | .gyEvent | .gyMeta => .gy
  | .baAlt | .baPres | .baTemp | .baTmo | .baAltft | .baTempf => .ba
  | .crModebar | .crModealt | .crStandby | .crActive | .crOsr _ | .crOstclr | .crOstset | .crEvflags => .cr

/-- The three sensors on the bus (R2, R51). -/
inductive Dev where
  | ht
  | gy
  | ba
  deriving DecidableEq, Repr

/-- The driver-level operations of FLEX §4, the pseudo-operations of agent ACQ (R99). -/
inductive DriverCall where
  /-- `initialize` (R204). -/
  | initHt
  /-- `readTemperature` (R205). -/
  | readTemperature
  /-- `readHumidity` (R206). -/
  | readHumidity
  /-- `begin(range)` (R207), `range` 0..3. -/
  | beginGy (r : BitVec 2)
  /-- `getEvent` (R208). -/
  | getEvent
  /-- `getSensorMetadata` (R209). -/
  | getSensorMetadata
  /-- `toggleOneShot` (R211). -/
  | toggleOneShot
  /-- `setModeBarometer` (R212). -/
  | setModeBarometer
  /-- `setModeAltimeter` (R212). -/
  | setModeAltimeter
  /-- `setModeStandby` (R212). -/
  | setModeStandby
  /-- `setModeActive` (R212). -/
  | setModeActive
  /-- `setOversampleRate(n)` (R212), `n` 0..255. -/
  | setOversampleRate (n : BitVec 8)
  /-- `enableEventFlags` (R212). -/
  | enableEventFlags
  /-- `readAltitude` (R214). -/
  | readAltitude
  /-- `readPressure` (R216). -/
  | readPressure
  /-- `readTemp` (R217). -/
  | readTemp
  /-- `readAltitudeFt` (R218). -/
  | readAltitudeFt
  /-- `readTempF` (R219). -/
  | readTempF
  deriving DecidableEq, Repr

/-- The mnemonic of a command, as R84 spells it. -/
def Instr.mnemonic : Instr → String
  | .htInitchk => "HT.INITCHK"
  | .htTemp => "HT.TEMP"
  | .htHum => "HT.HUM"
  | .gyBegin _ => "GY.BEGIN"
  | .gyEvent => "GY.EVENT"
  | .gyMeta => "GY.META"
  | .baAlt => "BA.ALT"
  | .baPres => "BA.PRES"
  | .baTemp => "BA.TEMP"
  | .baTmo => "BA.TMO"
  | .baAltft => "BA.ALTFT"
  | .baTempf => "BA.TEMPF"
  | .crModebar => "CR.MODEBAR"
  | .crModealt => "CR.MODEALT"
  | .crStandby => "CR.STANDBY"
  | .crActive => "CR.ACTIVE"
  | .crOsr _ => "CR.OSR"
  | .crOstclr => "CR.OSTCLR"
  | .crOstset => "CR.OSTSET"
  | .crEvflags => "CR.EVFLAGS"

/-- The operand a command is written with, if it has one (R81, R98). -/
def Instr.operand : Instr → Option Nat
  | .gyBegin r => some r
  | .crOsr n => some n
  | .htInitchk | .htTemp | .htHum | .gyEvent | .gyMeta | .baAlt | .baPres | .baTemp | .baTmo | .baAltft
  | .baTempf | .crModebar | .crModealt | .crStandby | .crActive | .crOstclr | .crOstset | .crEvflags => none

/-- A command written in the notation of R98: the mnemonic, then its operand in decimal if it has one. -/
def Instr.asm (i : Instr) : String :=
  match i.operand with
  | none => i.mnemonic
  | some n => i.mnemonic ++ " " ++ toString n

end Sys2Proof
end

