-- ==== Sys2Proof/WellFormed.lean ====
section
/-! DEFINITION. Which instructions have an encoding: the operand bounds of R81 and R94. -/

namespace Sys2Proof

/-- An instruction whose operand fits its field: `r` is the 2-bit `cmd[1:0]` of format R, `n` the 8-bit
`cmd[7:0]` of format I (R81, R94). The other 18 have no operand. -/
def Instr.wf : Instr → Bool
  | .gyBegin r => decide (r < 4)
  | .crOsr n => decide (n < 256)
  | .htInitchk | .htTemp | .htHum | .gyEvent | .gyMeta | .baAlt | .baPres | .baTemp | .baTmo | .baAltft
  | .baTempf | .crModebar | .crModealt | .crStandby | .crActive | .crOstclr | .crOstset | .crEvflags => true

/-- `Instr.wf` as a proposition. -/
abbrev Instr.WellFormed (i : Instr) : Prop := i.wf = true

end Sys2Proof
end

