-- ==== Sys2Proof/Decode.lean ====
section
/-! DEFINITION. The decoder of the 16-bit command word, total, with a name for each kind of reserved word,
and after it the encoder; the rows of R84 as data; the reader of the assembler notation of R98. -/

namespace Sys2Proof

/-- Why a word is reserved (R97). Whatever the reason, DP raises ILLEGAL (R243). -/
inductive Reject where
  /-- The high nibble of the opcode is a family 4 to 15 (R83). -/
  | reservedFamily
  /-- A function of families 0 to 3 that R84 does not list (R83). -/
  | unusedFunction
  /-- A word of format N with `cmd[7:0] ≠ 0` (R81). -/
  | immediateNotZero
  /-- Opcode 0x10 with `cmd[7:2] ≠ 0` (R81). -/
  | rangeFieldNotZero
  deriving DecidableEq, Repr

/-- The opcode `cmd[15:8]` (R80). -/
def opcodeOf (w : Cmd) : Nat := (w.extractLsb' 8 8).toNat

/-- The immediate `cmd[7:0]`, unsigned (R80, R94). -/
def immOf (w : Cmd) : Nat := (w.extractLsb' 0 8).toNat

/-- Format N: no operand, `cmd[7:0]` must be 0x00 (R81). -/
def formatN (imm : Nat) (i : Instr) : Except Reject Instr :=
  if imm = 0 then .ok i else .error .immediateNotZero

/-- Format R: `cmd[7:2]` must be 0, `cmd[1:0]` is the range index (R81). -/
def formatR (imm : Nat) : Except Reject Instr :=
  if imm / 4 = 0 then .ok (.gyBegin (imm % 4)) else .error .rangeFieldNotZero

/-- Format I: any 8-bit operand (R81). -/
def formatI (imm : Nat) : Except Reject Instr := .ok (.crOsr imm)

/-- The decoder: the opcode map of R83 and R84, each with its format of R81; every other word is
reserved (R97). -/
def decode (w : Cmd) : Except Reject Instr :=
  match opcodeOf w with
  | 0x01 => formatN (immOf w) .htInitchk
  | 0x02 => formatN (immOf w) .htTemp
  | 0x03 => formatN (immOf w) .htHum
  | 0x10 => formatR (immOf w)
  | 0x11 => formatN (immOf w) .gyEvent
  | 0x12 => formatN (immOf w) .gyMeta
  | 0x20 => formatN (immOf w) .baAlt
  | 0x21 => formatN (immOf w) .baPres
  | 0x22 => formatN (immOf w) .baTemp
  | 0x23 => formatN (immOf w) .baTmo
  | 0x24 => formatN (immOf w) .baAltft
  | 0x25 => formatN (immOf w) .baTempf
  | 0x30 => formatN (immOf w) .crModebar
  | 0x31 => formatN (immOf w) .crModealt
  | 0x32 => formatN (immOf w) .crStandby
  | 0x33 => formatN (immOf w) .crActive
  | 0x34 => formatI (immOf w)
  | 0x35 => formatN (immOf w) .crOstclr
  | 0x36 => formatN (immOf w) .crOstset
  | 0x37 => formatN (immOf w) .crEvflags
  | op => .error (if op < 0x40 then .unusedFunction else .reservedFamily)

/-- The instruction the decoder reads from a word of the opcode table: `nbits` bits of `w`, the bits above
them 0. A command is one 16-bit word that is never stored in bytes (R80), so the word is taken whole. -/
def decodeTableWord (nbits w : Nat) : Option Instr :=
  if w % 2 ^ nbits < 65536 then
    match decode (BitVec.ofNat 16 (w % 2 ^ nbits)) with
    | .ok i => some i
    | .error _ => none
  else none

/-- The word of an instruction (R84's column `cmd`; `r` and `n` in the low bits). -/
def encode : Instr → Cmd
  | .htInitchk => 0x0100
  | .htTemp => 0x0200
  | .htHum => 0x0300
  | .gyBegin r => 0x1000 ||| BitVec.ofNat 16 r
  | .gyEvent => 0x1100
  | .gyMeta => 0x1200
  | .baAlt => 0x2000
  | .baPres => 0x2100
  | .baTemp => 0x2200
  | .baTmo => 0x2300
  | .baAltft => 0x2400
  | .baTempf => 0x2500
  | .crModebar => 0x3000
  | .crModealt => 0x3100
  | .crStandby => 0x3200
  | .crActive => 0x3300
  | .crOsr n => 0x3400 ||| BitVec.ofNat 16 n
  | .crOstclr => 0x3500
  | .crOstset => 0x3600
  | .crEvflags => 0x3700

/-- A row of the machine-readable opcode table: a mask and the pattern under it (R81, R84). -/
structure OpRow where
  mnemonic : String
  mask : Cmd
  pattern : Cmd
  deriving DecidableEq, Repr

/-- The 20 rows of spec/opcode_table.json (R84), for the statements that compare the decoder with it. -/
def opcodeTable : List OpRow :=
  [⟨"HT.INITCHK", 0xFFFF, 0x0100⟩, ⟨"HT.TEMP", 0xFFFF, 0x0200⟩, ⟨"HT.HUM", 0xFFFF, 0x0300⟩,
    ⟨"GY.BEGIN", 0xFFFC, 0x1000⟩, ⟨"GY.EVENT", 0xFFFF, 0x1100⟩, ⟨"GY.META", 0xFFFF, 0x1200⟩] ++
  [⟨"BA.ALT", 0xFFFF, 0x2000⟩, ⟨"BA.PRES", 0xFFFF, 0x2100⟩, ⟨"BA.TEMP", 0xFFFF, 0x2200⟩,
    ⟨"BA.TMO", 0xFFFF, 0x2300⟩, ⟨"BA.ALTFT", 0xFFFF, 0x2400⟩, ⟨"BA.TEMPF", 0xFFFF, 0x2500⟩] ++
  [⟨"CR.MODEBAR", 0xFFFF, 0x3000⟩, ⟨"CR.MODEALT", 0xFFFF, 0x3100⟩, ⟨"CR.STANDBY", 0xFFFF, 0x3200⟩,
    ⟨"CR.ACTIVE", 0xFFFF, 0x3300⟩, ⟨"CR.OSR", 0xFF00, 0x3400⟩, ⟨"CR.OSTCLR", 0xFFFF, 0x3500⟩,
    ⟨"CR.OSTSET", 0xFFFF, 0x3600⟩, ⟨"CR.EVFLAGS", 0xFFFF, 0x3700⟩]

/-- A word that matches a row under the row's mask (R97). -/
def OpRow.covers (row : OpRow) (w : Cmd) : Bool := (w &&& row.mask) == row.pattern

/-! ## Assembler notation (R98): `FAMILY.FUNCTION [operand]`, decimal or `0x` operand, `--` comment. -/

/-- The part of a line before `--`. -/
def dropComment : List Char → List Char
  | '-' :: '-' :: _ => []
  | c :: cs => c :: dropComment cs
  | [] => []

/-- The blank-separated words of a line; `cur` is the word being read, last character first. -/
def lineWords : List Char → List Char → List (List Char)
  | [], cur => if cur.isEmpty then [] else [cur.reverse]
  | c :: cs, cur =>
    if c = ' ' ∨ c = '\t' then
      if cur.isEmpty then lineWords cs [] else cur.reverse :: lineWords cs []
    else lineWords cs (c :: cur)

/-- The value of a digit of the given base, at most 16: its place among the digits. -/
def digitIn (base : Nat) (c : Char) : Option Nat := ("0123456789ABCDEF".toList.take base).idxOf? c.toUpper

/-- The number a digit string denotes, `acc` being the value of the digits before it; at least one digit is
required. -/
def digitsValue (base : Nat) : List Char → Option Nat → Option Nat
  | [], acc => acc
  | c :: cs, acc => (digitIn base c).bind fun d => digitsValue base cs (some (acc.getD 0 * base + d))

/-- An operand: decimal, or hexadecimal after `0x` (R98). -/
def operandValue : List Char → Option Nat
  | '0' :: 'x' :: ds => digitsValue 16 ds none
  | ds => digitsValue 10 ds none

/-- The 18 commands without an operand. -/
def plainInstrs : List Instr :=
  [.htInitchk, .htTemp, .htHum, .gyEvent, .gyMeta, .baAlt, .baPres, .baTemp, .baTmo, .baAltft, .baTempf] ++
  [.crModebar, .crModealt, .crStandby, .crActive, .crOstclr, .crOstset, .crEvflags]

/-- One line of a program in the notation of R98 as a well-formed instruction. -/
def parseLine (line : String) : Option Instr :=
  match lineWords (dropComment line.toList) [] with
  | [m] => plainInstrs.find? fun i => i.mnemonic.toList == m
  | [m, o] =>
    match operandValue o with
    | some n =>
      if m = "GY.BEGIN".toList ∧ n < 4 then some (.gyBegin n)
      else if m = "CR.OSR".toList ∧ n < 256 then some (.crOsr n)
      else none
    | none => none
  | _ => none

end Sys2Proof
end

