-- ==== Sys2Proof/Machine/State.lean ====
section
/-! DEFINITION. The state of the SFE as plain data: every register of spec/10_state.md R20, the
configuration (R36), ACQ's position (R33), the host's side (R277) and the environment's answers (R40);
the reasons a step can stop; the state after reset (R41, R270). -/

namespace Sys2Proof.Machine

/-- `GYST` (R25): "`Uninitialized -> Active` (no further states)". -/
inductive GySt where
  | uninitialized
  | active
  deriving DecidableEq, Repr

/-- The four faults of `FLT` (R242 to R245). -/
inductive FaultCode where
  /-- Code 0: a sample of another length than the command's exact one. -/
  | short
  /-- Code 1: a word no row of R84 matches. -/
  | illegal
  /-- Code 2: GY.EVENT or GY.META while `GYST` is Uninitialized. -/
  | notcfg
  /-- Code 3: a command must read state that holds `novalue`. -/
  | novalue
  deriving DecidableEq, Repr

/-- Whose valid bit `raise F` clears (R241). -/
inductive Dest where
  /-- `RESV <- 000`. -/
  | res
  /-- `RESV[0] <- 0`. -/
  | res0
  /-- `RESBV <- 0`. -/
  | resb
  /-- No valid bit. -/
  | none
  deriving DecidableEq, Repr

/-- What a driver call returns when it ends (R202, R207 to R209). -/
inductive RetKind where
  | unit
  | bool
  | number
  | event
  | metadata
  deriving DecidableEq, Repr

/-- One action of ACQ: the alphabet of the sequences' texts (R203 to R219). The rest of the running
sequence's text, as a list of these, is ACQ's position (R33). -/
inductive Act where
  /-- `BusCmd(dev, c)` (R63). -/
  | busCmd (dev : Dev) (c : Byte)
  /-- `BusWrite(dev, reg, v)` (R63). -/
  | busWrite (dev : Dev) (reg v : Byte)
  /-- `BusWrite(dev, reg, CRV)` (R212). -/
  | busWriteCrv (dev : Dev) (reg : Byte)
  /-- `BusRead(dev, reg?, n)` up to its `requestRead`, with or without `wait_avail` (R62). -/
  | busRead (dev : Dev) (reg : Option Byte) (n : Nat) (wait : Bool)
  /-- `while not dataAvailable() do nothing` (R65). -/
  | waitAvail
  /-- The rest of a `BusRead` whose `actualCount` was `k`: the bytes go to `SB` (R62). -/
  | fill (k : Nat)
  /-- `CRV <- BusRead8(dev, reg)` (R66, R212). -/
  | loadCrv (dev : Dev) (reg : Byte)
  /-- `PreCheck(mask, effective)` (R215). -/
  | preCheck (mask : Byte) (effective : Bool)
  /-- `POLLCNT <- 0`, the start of `Poll` (R213). -/
  | pollInit
  /-- One turn of the loop of `Poll(mask)` (R213). -/
  | pollRead (mask : Byte)
  /-- `delay(ms)` (R61). -/
  | delay (ms : Nat)
  /-- `TICKS <- monotonicTicks() mod 2^32` (R208). -/
  | latchTicks
  /-- A DP command presented on the command port (R33, R80). -/
  | dp (w : Cmd)
  /-- `if RESB = 0 then return` (R207). -/
  | exitUnlessResb
  /-- The end of an included text, where its early `return` goes (R203 f). -/
  | join
  /-- The return of the sequence (R202). -/
  | ret (k : RetKind)
  deriving DecidableEq, Repr

/-- What ACQ does on its bus and timing ports, in the six primitives of R60 and the two of R61. -/
inductive BusEvent where
  | beginTransaction (addr : BitVec 7)
  | write (b : Byte)
  | endTransaction (sendStop : Bool)
  | requestRead (addr : BitVec 7) (n : Nat)
  | read
  | delay (ms : Nat)
  | monotonicTicks
  deriving DecidableEq, Repr

/-- A register by its name in R20, as the host names it (R277). -/
inductive Reg where
  | sb (i : Fin 7)
  | sbcnt
  | range
  | gyst
  | rawx
  | rawy
  | rawz
  | res0
  | res1
  | res2
  | resv
  | resb
  | resbv
  | tmo
  | flt
  | evts
  | crv
  | ticks
  | pollcnt
  deriving DecidableEq, Repr

/-- The value a host read gives back (R277). -/
inductive RegVal where
  | bits (n : Nat)
  | signed (i : Int)
  | number (f : F)
  | flag (b : Bool)
  deriving DecidableEq, Repr

/-- What the host may do (R277). -/
inductive HostReq where
  /-- The reset event (R270). -/
  | reset
  /-- Start a sequence. -/
  | start (c : DriverCall)
  /-- Issue one DP command directly. -/
  | command (w : Cmd)
  /-- Read a register (also `FLT`). -/
  | read (r : Reg)
  deriving DecidableEq, Repr

/-- The return value of a sequence (R202, R208, R209). -/
inductive Ret where
  /-- The sequence stopped at a fault: nothing valid is returned (R201). -/
  | nothing
  /-- The end of a sequence that returns no value (R211, R212). -/
  | unit
  | bool (b : Bool)
  | number (f : F)
  | event (x y z : F) (evts : Tick) (typeTag sensorId : BitVec 32)
  | metadata (name : String) (min max resolution : F)
  deriving DecidableEq, Repr

/-- The answers of the bus and timing collaborators (R40, R60, R61). A list holds answers fixed in
advance, oldest first; where it is empty the answer is the free value of the draw number `draws`. -/
structure Env where
  /-- `actualCount` of each `requestRead`. -/
  counts : List Nat
  /-- The byte of each `read()`. -/
  bytes : List Byte
  /-- For each wait of R65, how often `dataAvailable()` answers false before it answers true; `none`: it
  never answers true. -/
  waits : List (Option Nat)
  /-- The value of each `monotonicTicks()`. -/
  ticks : List Nat
  /-- How many free values have been drawn. -/
  draws : Nat
  deriving DecidableEq, Repr

/-- The complete state. `none` is the manual's `novalue` (R21), a state of its own and not a missing reset value. -/
structure State where
  /-- `SB[0..6]` (R22). -/
  sb : Vector (Option Byte) 7
  /-- `SBCNT` (R23). -/
  sbcnt : BitVec 3
  /-- `RANGE` (R24). -/
  range : Option (BitVec 2)
  /-- `GYST` (R25). -/
  gyst : GySt
  /-- `RAWX`, `RAWY`, `RAWZ`, two's complement (R26). -/
  rawx : Option (BitVec 16)
  rawy : Option (BitVec 16)
  rawz : Option (BitVec 16)
  /-- `RES0`, `RES1`, `RES2` (R27). -/
  res0 : Option F
  res1 : Option F
  res2 : Option F
  /-- `RESV` (R20, R27). -/
  resv : BitVec 3
  /-- `RESB` (R28). -/
  resb : Option Bool
  /-- `RESBV` (R28). -/
  resbv : Bool
  /-- `TMO` (R29). -/
  tmo : Bool
  /-- `FLT` (R30). -/
  flt : BitVec 4
  /-- `EVTS` (R31). -/
  evts : Option Tick
  /-- `CRV` (R32). -/
  crv : Option Byte
  /-- `TICKS` (R34). -/
  ticks : Option Tick
  /-- `POLLCNT` (R34). -/
  pollcnt : BitVec 10
  /-- The configuration record (R36: "DP's own control state"); no command writes it. -/
  cfg : Cfg
  /-- ACQ's position: the rest of the running sequence's text, empty when ACQ is idle (R33). -/
  acq : List Act
  /-- The host's requests, oldest first (R277); one is taken when ACQ is idle (log entry 8). -/
  host : List HostReq
  /-- The return value of the last sequence (R202). -/
  ret : Option Ret
  /-- The answer to the host's last register read (R277). -/
  hostOut : Option RegVal
  /-- The environment's answers (R40). -/
  env : Env
  /-- What ACQ has done on its ports, oldest first (R60, R61; the model's own record, log entry 9). -/
  bus : List BusEvent
  deriving DecidableEq, Repr

/-- Why the machine stops. Both are safe: they stop a run the manual says must give no value. -/
inductive Fault where
  /-- Raised by a host read of a register that holds `novalue` or whose valid bit is clear: "a model must
  make such a read a fault or refuse the claim, never a value" (R21). Safe. -/
  | hostReadNovalue (r : Reg)
  /-- Raised by an action of ACQ that must read a register holding `novalue` (`RESB` in `begin`, `CRV` in a
  write back, the results at a return); no sequence reaches it (R21, log entry 10). Safe. -/
  | acqReadNovalue
  deriving DecidableEq, Repr

/-- Why an instruction has no meaning here. -/
inductive Refusal where
  /-- Raised by an arm of `exec` for an instruction that has no meaning yet; no arm does. Safe. -/
  | notModelled (mnemonic : String)
  deriving DecidableEq, Repr

/-- The outcome of a step of this machine. -/
abbrev Out := Host.Outcome State Fault Refusal

/-- The environment before it has answered anything: every answer is a free value (R40). -/
def Env.start : Env where
  counts := []
  bytes := []
  waits := []
  ticks := []
  draws := 0

/-- The configuration of the instance created by reset: the OPEN fields are free, the four fields with a
default have it (R8: `NUM` binary32, `ALT_FRAC_HIGH` false, the pre-check switches false and true). -/
def instanceCfg : Cfg :=
  { Config.openCfg.cfg with
    num := .binary32
    altFracHigh := false
    presPrecheckEffective := false
    tempPrecheckEffective := true }

/-- The state after the reset event (R20's column "reset", R41, R270). -/
def State.reset : State where
  sb := Vector.replicate 7 none
  sbcnt := 0
  range := none
  gyst := .uninitialized
  rawx := none
  rawy := none
  rawz := none
  res0 := none
  res1 := none
  res2 := none
  resv := 0
  resb := none
  resbv := false
  tmo := false
  flt := 0
  evts := none
  crv := none
  ticks := none
  pollcnt := 0
  cfg := instanceCfg
  acq := []
  host := []
  ret := none
  hostOut := none
  env := Env.start
  bus := []

end Sys2Proof.Machine
end

