-- ==== Sys2Proof/Machine/Flags.lean ====
section
/-! DEFINITION. The status bits: the fault register `FLT`, the valid bits `RESV` and `RESBV`, and `TMO`
(spec/10_state.md R27 to R30, R35). -/

namespace Sys2Proof.Machine

/-- The bit of `FLT` a fault sets: SHORT 0, ILLEGAL 1, NOTCFG 2, NOVALUE 3 (R242 to R245). -/
def FaultCode.mask : FaultCode → BitVec 4
  | .short => 0b0001
  | .illegal => 0b0010
  | .notcfg => 0b0100
  | .novalue => 0b1000

/-- `FLT[c] <- 1`: sticky, the other bits stay (R30, R241). -/
def setFault (flt : BitVec 4) (c : FaultCode) : BitVec 4 := flt ||| c.mask

/-- `RESV` of a command that writes `RES0` alone (R27). -/
def resvScalar : BitVec 3 := 0b001

/-- `RESV` of a command that writes `RES0`, `RES1`, `RES2` (R27). -/
def resvTriple : BitVec 3 := 0b111

/-- `RESV` after a fault of a command whose destination is all of `RES0..RES2` (R241). -/
def resvNone : BitVec 3 := 0b000

/-- `RESV[0] <- 0`, the other two bits as they were (R241: BA.ALTFT, BA.TEMPF). -/
def clearResv0 (resv : BitVec 3) : BitVec 3 := resv &&& 0b110

/-- The valid bit of `RES0`, `RES1` or `RES2` (R20). -/
def resultValid (resv : BitVec 3) (i : Nat) : Bool := resv.getLsbD i

end Sys2Proof.Machine
end

