-- ==== Sys2Proof/Machine/Num.lean ====
section
/-! DEFINITION. The numerics record `Cfg.NUM` (spec/00_scope.md R14, spec/30_encoding.md R100): `fl`, one
rounding of an exact rational, and `val`, the exact rational a result register holds. -/

namespace Sys2Proof.Machine

/-- `2^e ≤ a / d`, in naturals. -/
def pow2Le (e : Int) (a d : Nat) : Bool := decide (d * 2 ^ e.toNat ≤ a * 2 ^ (-e).toNat)

/-- The exponent `e` with `2^e ≤ a / d < 2^(e+1)`, for `a` and `d` not 0. -/
def ilog2 (a d : Nat) : Int :=
  if pow2Le ((a.log2 : Int) - d.log2) a d then (a.log2 : Int) - d.log2 else (a.log2 : Int) - d.log2 - 1

/-- `n / m` rounded to the nearest integer, ties to even (R100 a). -/
def roundHalfEven (n m : Nat) : Nat :=
  if 2 * (n % m) < m then n / m
  else if m < 2 * (n % m) then n / m + 1
  else n / m + (n / m) % 2

/-- The exponent of the binary32 grid that `a / d` is rounded on: that of the number, but at least −126, so
that small numbers are rounded to the subnormal grid (R100 b). -/
def gridExp (a d : Nat) : Int := max (ilog2 a d) (-126)

/-- `a / d` in units of the last place of its grid, rounded once (R100 a). -/
def significand (a d : Nat) : Nat :=
  roundHalfEven (a * 2 ^ (23 - gridExp a d).toNat) (d * 2 ^ (gridExp a d - 23).toNat)

/-- The binary32 bits, less the sign, of the infinity. -/
def infBits : Nat := 0x7F800000

/-- The binary32 bits, less the sign, of `a / d`. A significand that rounds up to the next power of two
carries into the exponent; beyond the largest finite number the result is the infinity (R100 d). -/
def magBits (a d : Nat) : Nat :=
  min ((gridExp a d + 126).toNat * 2 ^ 23 + significand a d) infBits

/-- IEEE 754 binary32, round to nearest, ties to even (R100): `fl(0) = +0`, and a negative number that rounds
to zero gives −0 (R100 c). -/
def b32OfRat (q : Rat) : BitVec 32 :=
  if q.num = 0 then 0
  else BitVec.ofNat 32 ((if q.num < 0 then 2 ^ 31 else 0) + magBits q.num.natAbs q.den)

/-- The exponent field of a binary32 pattern. -/
def expField (b : BitVec 32) : Nat := (b.extractLsb' 23 8).toNat

/-- The fraction field of a binary32 pattern. -/
def fracField (b : BitVec 32) : Nat := (b.extractLsb' 0 23).toNat

/-- A finite pattern: not an infinity, not a NaN. -/
def b32Finite (b : BitVec 32) : Bool := expField b != 255

/-- One of the two infinities. -/
def b32Infinite (b : BitVec 32) : Bool := expField b == 255 && fracField b == 0

/-- Not a number. No command produces one (R100 e). -/
def b32NaN (b : BitVec 32) : Bool := expField b == 255 && fracField b != 0

/-- The significand of a finite pattern, in units of its last place. -/
def sigOf (b : BitVec 32) : Nat := if expField b = 0 then fracField b else 2 ^ 23 + fracField b

/-- The exponent of the last place of a finite pattern. -/
def lastPlace (b : BitVec 32) : Int := if expField b = 0 then -149 else (expField b : Int) - 150

/-- The magnitude of a finite pattern, exact. -/
def b32Mag (b : BitVec 32) : Rat :=
  ((sigOf b * 2 ^ (lastPlace b).toNat : Nat) : Rat) / ((2 ^ (-lastPlace b).toNat : Nat) : Rat)

/-- `val` of a binary32 pattern; of one that is not finite it is a free value (R100 d, log entry 6). -/
def b32Val (b : BitVec 32) : Rat :=
  if b32Finite b then (if b.msb then -b32Mag b else b32Mag b) else Config.undefinedVal b

/-- `fl` of R14: one rounding of the exact value to the format of `NUM`. That a record other than binary32 too rounds
once, where D4 also admits one that chains rounded operations, is the model's choice (DESIGN CHOICE, log entry 20). -/
def fl (n : NumKind) (q : Rat) : F :=
  match n with
  | .binary32 => .b32 (b32OfRat q)
  | .custom => .custom (Config.customNum.fl q)

/-- `val` of R14: the exact rational a result register holds. -/
def val (f : F) : Rat :=
  match f with
  | .b32 b => b32Val b
  | .custom k => Config.customNum.val k

/-- A binary32 infinity; what another numerics record does outside its range is its own (R100 d, g). -/
def isInfinite (f : F) : Bool :=
  match f with
  | .b32 b => b32Infinite b
  | .custom _ => false

/-- A unit conversion of a result register: `fl(g(val(r)))`, but an infinity is left as it is (R100 d). -/
def convert (n : NumKind) (g : Rat → Rat) (r : F) : F :=
  if isInfinite r then r else fl n (g (val r))

end Sys2Proof.Machine
end

