-- ==== Sys2Proof/Machine/Operands.lean ====
section
/-! DEFINITION. Operand assembly: the reassembly primitives of spec/00_scope.md R11 and R12, the sample
layouts of spec/30_encoding.md R86 to R91, and the register fields of R92 to R94 and R181. -/

namespace Sys2Proof.Machine

/-! ## Reassembly (R11, R12, R52: big-endian) -/

/-- The 16-bit pattern `(zext(b0) << 8) | zext(b1)` (R11). -/
def be16 (b0 b1 : Byte) : BitVec 16 := (b0.setWidth 16 <<< 8) ||| b1.setWidth 16

/-- `be16u`: unsigned, 0..65535 (R11). -/
def be16u (b0 b1 : Byte) : Nat := (be16 b0 b1).toNat

/-- `sext_N(v)`: `v − 2^N` if the top bit is set, else `v` (R12). -/
def sext {n : Nat} (v : BitVec n) : Int := if v.msb then (v.toNat : Int) - 2 ^ n else v.toNat

/-- `be16s`: two's complement, −32768..32767 (R11). -/
def be16s (b0 b1 : Byte) : Int := sext (be16 b0 b1)

/-- `be24u` as a 24-bit pattern (R11). -/
def be24 (b0 b1 b2 : Byte) : BitVec 24 :=
  (b0.setWidth 24 <<< 16) ||| (b1.setWidth 24 <<< 8) ||| b2.setWidth 24

/-- `neg_N(v)`: "inverting bits and adding one" (R12). -/
def neg {n : Nat} (v : BitVec n) : BitVec n := ~~~v + 1

/-! ## Fields of the samples -/

/-- The four high bits `b[7:4]` of a byte. -/
def highNibble (b : Byte) : Nat := (b.extractLsb' 4 4).toNat

/-- The four low bits `b[3:0]` of a byte. -/
def lowNibble (b : Byte) : Nat := (b.extractLsb' 0 4).toNat

/-- The pressure's integer part `w >> 6` (R89). -/
def presInt (b0 b1 b2 : Byte) : Nat := (be24 b0 b1 b2 >>> 6).toNat

/-- The pressure's fraction `(SB[2] & 0x30) >> 4`, in quarters (R89). -/
def presFrac (b2 : Byte) : Nat := ((b2 &&& 0x30) >>> 4).toNat

/-- The altitude's fraction, in sixteenths: the low nibble of the third byte, or the high one when
`ALT_FRAC_HIGH` is set (R90). -/
def altFrac (fracHigh : Bool) (b2 : Byte) : Nat := if fracHigh then highNibble b2 else lowNibble b2

/-- The 12-bit pattern `(zext(SB[0]) << 4) | SB[1][7:4]` of the barometric temperature (R91). -/
def tempPattern (b0 b1 : Byte) : BitVec 12 := (b0.setWidth 12 <<< 4) ||| (b1.extractLsb' 4 4).setWidth 12

/-- The integer part `m[11:4]` of an 8+4 magnitude (R96). -/
def tempInt (m : BitVec 12) : Nat := (m.extractLsb' 4 8).toNat

/-- The fraction `m[3:0]` of an 8+4 magnitude, in sixteenths (R96). -/
def tempFrac (m : BitVec 12) : Nat := (m.extractLsb' 0 4).toNat

/-! ## Fields of the control registers (R92, R93, R181) -/

/-- `setbit(c, b) = c | (1 << b)` (R181). -/
def setbit (c : Byte) (b : Nat) : Byte := c ||| (1#8 <<< b)

/-- `clrbit(c, b) = c & ~(1 << b)` on 8 bits (R181). -/
def clrbit (c : Byte) (b : Nat) : Byte := c &&& ~~~(1#8 <<< b)

/-- `insert_os(c, n) = (c & ~0x38) | (min(n, 7) << 3)`: saturates, does not wrap (R94, R181). -/
def insertOs (c : Byte) (n : Nat) : Byte :=
  (c &&& ~~~Config.osMask) ||| (BitVec.ofNat 8 (min n 7) <<< Config.osShift)

/-- Whether a ready bit named by the mask is set in a status byte (R93, R213). -/
def ready (status mask : Byte) : Bool := (status &&& mask) != 0

end Sys2Proof.Machine
end

