-- ==== Sys2Proof/Machine/Ops.lean ====
section
/-! DEFINITION. The named operations over the registers that the commands share: raising a fault
(spec/60_exceptions.md R241), reading the sample and the latches (R21, R23), writing results (R27), the
environment's answers (spec/20_memory.md R60 to R66), and the host's view of the registers (R277). -/

namespace Sys2Proof.Machine

/-! ## Faults -/

/-- Clear the valid bit of a faulting command's own destination (R241). -/
def clearValid (d : Dest) (s : State) : State :=
  match d with
  | .res => { s with resv := resvNone }
  | .res0 => { s with resv := clearResv0 s.resv }
  | .resb => { s with resbv := false }
  | .none => s

/-- `raise F(c)` (R241): "exactly these writes and no other", the bit of `FLT` and the valid bit of the
destination. There is no vector, no saved state and no return from a fault (R252, R253). -/
def raise (c : FaultCode) (d : Dest) (s : State) : State :=
  { clearValid d s with flt := setFault s.flt c }

/-- The end of a command: its writes, or the fault it raised, after which DP accepts the next command (R241). -/
def finish (d : Dest) (s : State) (r : Except FaultCode State) : Out :=
  match r with
  | .ok t => .next t
  | .error c => .next (raise c d s)

/-! ## Operands in registers -/

/-- `if SBCNT ≠ n then raise F(SHORT)` (R23, R242). -/
def needCount (n : Nat) (s : State) : Except FaultCode Unit :=
  if s.sbcnt.toNat = n then .ok () else .error .short

/-- Read state that may hold `novalue`: then raise NOVALUE (R21, R245). -/
def need {α : Type} (r : Option α) : Except FaultCode α :=
  match r with
  | some v => .ok v
  | none => .error .novalue

/-- The byte `SB[i]` (R22). -/
def sample (i : Fin 7) (s : State) : Except FaultCode Byte := need s.sb[i]

/-- `if GYST = 0 then raise F(NOTCFG)` (R244). -/
def needActive (s : State) : Except FaultCode Unit :=
  match s.gyst with
  | .active => .ok ()
  | .uninitialized => .error .notcfg

/-- `if RESV[0] = 0 then raise F(NOVALUE)`, then `RES0` (R245). -/
def needRes0 (s : State) : Except FaultCode F :=
  if resultValid s.resv 0 then need s.res0 else .error .novalue

/-! ## Results (R27) -/

/-- A single result: `RES0 <- fl(V); RES1, RES2 <- novalue; RESV <- 001; TMO <- 0`. -/
def writeScalar (v : Rat) (s : State) : State :=
  { s with res0 := some (fl s.cfg.num v), res1 := none, res2 := none, resv := resvScalar, tmo := false }

/-- Three results: `RES0..RES2 <- fl(V); RESV <- 111; TMO <- 0`. -/
def writeTriple (v0 v1 v2 : Rat) (s : State) : State :=
  { s with
    res0 := some (fl s.cfg.num v0)
    res1 := some (fl s.cfg.num v1)
    res2 := some (fl s.cfg.num v2)
    resv := resvTriple
    tmo := false }

/-- The boolean result: `RESB <- b; RESBV <- 1` (R28). -/
def writeCheck (b : Bool) (s : State) : State := { s with resb := some b, resbv := true }

/-- A unit conversion in place: `RES0 <- fl(g(val(RES0)))`, everything else as it was (R159, R160). -/
def convertRes0 (g : Rat → Rat) (s : State) : Except FaultCode State := do
  let r ← needRes0 s
  return { s with res0 := some (convert s.cfg.num g r) }

/-- A transformation of the control-register latch: `CRV <- g(CRV)`, NOVALUE when `CRV` is `novalue` (R180). -/
def transformCrv (g : Byte → Byte) (s : State) : Except FaultCode State := do
  let c ← need s.crv
  return { s with crv := some (g c) }

/-! ## The environment's answers -/

/-- A free draw: the number of the draw, and the environment with it spent. -/
def Env.spend (e : Env) : Nat × Env := (e.draws, { e with draws := e.draws + 1 })

/-- The `actualCount` of `requestRead(dev, n)` (R60, R64). -/
def drawCount (n : Nat) (e : Env) : Nat × Env :=
  match e.counts with
  | k :: ks => (k, { e with counts := ks })
  | [] => ((Config.freeCount e.spend.1 n).val, e.spend.2)

/-- One `read()` (R60). -/
def drawByte (e : Env) : Byte × Env :=
  match e.bytes with
  | b :: bs => (b, { e with bytes := bs })
  | [] => (Config.freeByte e.spend.1, e.spend.2)

/-- `k` calls of `read()`, in arrival order (R62). -/
def drawBytes : Nat → Env → List Byte × Env
  | 0, e => ([], e)
  | k + 1, e => ((drawByte e).1 :: (drawBytes k (drawByte e).2).1, (drawBytes k (drawByte e).2).2)

/-- One `dataAvailable()` (R60, R65). -/
def drawAvail (e : Env) : Bool × Env :=
  match e.waits with
  | none :: _ => (false, e)
  | some 0 :: ws => (true, { e with waits := ws })
  | some (k + 1) :: ws => (false, { e with waits := some k :: ws })
  | [] => (Config.freeAvail e.spend.1, e.spend.2)

/-- One `monotonicTicks()` (R61). -/
def drawTicks (e : Env) : Nat × Env :=
  match e.ticks with
  | t :: ts => (t, { e with ticks := ts })
  | [] => (Config.freeTicks e.spend.1, e.spend.2)

/-- Record what ACQ does on its ports. -/
def emit (evs : List BusEvent) (s : State) : State := { s with bus := s.bus ++ evs }

/-- The bus address of a device (R51). -/
def devAddr (c : Cfg) (dev : Dev) : BitVec 7 :=
  match dev with
  | .ht => c.htAddr
  | .gy => c.gyAddr
  | .ba => c.baAddr

/-- The `sendStop` argument before a read of a device (R62, R66). -/
def devStop (c : Cfg) (dev : Dev) : Bool :=
  match dev with
  | .ht => c.htStop
  | .gy => c.gyStop
  | .ba => c.baStop

/-! ## The host's view (R277, R21) -/

/-- The value of a register for the host: nothing where it holds `novalue` or its valid bit is clear. -/
def hostView (r : Reg) (s : State) : Option RegVal :=
  match r with
  | .sb i => s.sb[i].map fun b => .bits b.toNat
  | .sbcnt => some (.bits s.sbcnt.toNat)
  | .range => s.range.map fun r => .bits r.toNat
  | .gyst => some (.flag (s.gyst == .active))
  | .rawx => s.rawx.map fun v => .signed (sext v)
  | .rawy => s.rawy.map fun v => .signed (sext v)
  | .rawz => s.rawz.map fun v => .signed (sext v)
  | .res0 => if resultValid s.resv 0 then s.res0.map .number else none
  | .res1 => if resultValid s.resv 1 then s.res1.map .number else none
  | .res2 => if resultValid s.resv 2 then s.res2.map .number else none
  | .resv => some (.bits s.resv.toNat)
  | .resb => if s.resbv then s.resb.map .flag else none
  | .resbv => some (.flag s.resbv)
  | .tmo => some (.flag s.tmo)
  | .flt => some (.bits s.flt.toNat)
  | .evts => s.evts.map fun t => .bits t.toNat
  | .crv => s.crv.map fun c => .bits c.toNat
  | .ticks => s.ticks.map fun t => .bits t.toNat
  | .pollcnt => some (.bits s.pollcnt.toNat)

end Sys2Proof.Machine
end

