-- ==== Sys2Proof/Machine/Ba.lean ====
section
/-! DEFINITION. Family BA, barometric decode and the unit conversions (spec/42_barometric.md R150 to R161). -/

namespace Sys2Proof.Machine

/-- The exact altitude of R152, metres: unsigned integer part plus sixteenths. -/
def altValue (fracHigh : Bool) (b0 b1 b2 : Byte) : Rat :=
  (be16u b0 b1 : Rat) + (altFrac fracHigh b2 : Rat) / 16

/-- BA.ALT (R152). -/
def commandBaAlt (s : State) : Except FaultCode State := do
  needCount 3 s
  let b0 ← sample 0 s
  let b1 ← sample 1 s
  let b2 ← sample 2 s
  return writeScalar (altValue s.cfg.altFracHigh b0 b1 b2) s

/-- The exact pressure of R154, pascals: the 24-bit word shifted right by 6, plus quarters. -/
def presValue (b0 b1 b2 : Byte) : Rat := (presInt b0 b1 b2 : Rat) + (presFrac b2 : Rat) / 4

/-- BA.PRES (R154). -/
def commandBaPres (s : State) : Except FaultCode State := do
  needCount 3 s
  let b0 ← sample 0 s
  let b1 ← sample 1 s
  let b2 ← sample 2 s
  return writeScalar (presValue b0 b1 b2) s

/-- The value of an 8+4 magnitude (R96). -/
def tempMagnitude (m : BitVec 12) : Rat := (tempInt m : Rat) + (tempFrac m : Rat) / 16

/-- The exact barometric temperature of R156, °C: with the sign bit set, negate the 12 bits, take integer and
fraction, and negate the result. -/
def baTempValue (b0 b1 : Byte) : Rat :=
  if b0.getLsbD 7 then -tempMagnitude (neg (tempPattern b0 b1)) else tempMagnitude (tempPattern b0 b1)

/-- BA.TEMP (R156). -/
def commandBaTemp (s : State) : Except FaultCode State := do
  needCount 2 s
  let b0 ← sample 0 s
  let b1 ← sample 1 s
  return writeScalar (baTempValue b0 b1) s

/-- BA.TMO (R158): the timeout sentinel −999, marked in `TMO`. -/
def commandBaTmo (s : State) : Except FaultCode State :=
  .ok { writeScalar Config.sentinel s with tmo := true }

/-- Metres to feet (R159). -/
def feetOfMetres (v : Rat) : Rat := v * Config.mToFt

/-- Celsius to Fahrenheit (R160). -/
def fahrenheitOfCelsius (v : Rat) : Rat := v * Config.cToFMul + Config.cToFOff

/-- BA.ALTFT (R159): a pure conversion of `RES0`, of the sentinel too. -/
def commandBaAltft (s : State) : Except FaultCode State := convertRes0 feetOfMetres s

/-- BA.TEMPF (R160): a pure conversion of `RES0`, of the sentinel too. -/
def commandBaTempf (s : State) : Except FaultCode State := convertRes0 fahrenheitOfCelsius s

/-- BA.ALT as an atomic step of DP. -/
def execBaAlt (s : State) : Out := finish .res s (commandBaAlt s)

/-- BA.PRES as an atomic step of DP. -/
def execBaPres (s : State) : Out := finish .res s (commandBaPres s)

/-- BA.TEMP as an atomic step of DP. -/
def execBaTemp (s : State) : Out := finish .res s (commandBaTemp s)

/-- BA.TMO as an atomic step of DP; it raises nothing (R158). -/
def execBaTmo (s : State) : Out := finish .none s (commandBaTmo s)

/-- BA.ALTFT as an atomic step of DP. -/
def execBaAltft (s : State) : Out := finish .res0 s (commandBaAltft s)

/-- BA.TEMPF as an atomic step of DP. -/
def execBaTempf (s : State) : Out := finish .res0 s (commandBaTempf s)

end Sys2Proof.Machine
end

