-- ==== Sys2Proof/Machine/Cr.lean ====
section
/-! DEFINITION. Family CR, the control-register field unit (spec/43_control_register.md R180 to R190): each
command transforms the latch `CRV` and touches no other state. -/

namespace Sys2Proof.Machine

/-- CR.MODEBAR (R182): select Barometer mode. -/
def commandCrModebar (s : State) : Except FaultCode State := transformCrv (fun c => clrbit c s.cfg.baAltBit.val) s

/-- CR.MODEALT (R183): select Altimeter mode. -/
def commandCrModealt (s : State) : Except FaultCode State := transformCrv (fun c => setbit c s.cfg.baAltBit.val) s

/-- CR.STANDBY (R184): select Standby. -/
def commandCrStandby (s : State) : Except FaultCode State := transformCrv (fun c => clrbit c s.cfg.baSbybBit.val) s

/-- CR.ACTIVE (R185): select Active. -/
def commandCrActive (s : State) : Except FaultCode State := transformCrv (fun c => setbit c s.cfg.baSbybBit.val) s

/-- CR.OSR n (R186): insert the clamped oversample rate into bits 5:3. -/
def commandCrOsr (n : Nat) (s : State) : Except FaultCode State := transformCrv (fun c => insertOs c n) s

/-- CR.OSTCLR (R187): clear the one-shot trigger bit. -/
def commandCrOstclr (s : State) : Except FaultCode State := transformCrv (fun c => clrbit c s.cfg.baOstBit.val) s

/-- CR.OSTSET (R188): set the one-shot trigger bit. -/
def commandCrOstset (s : State) : Except FaultCode State := transformCrv (fun c => setbit c s.cfg.baOstBit.val) s

/-- CR.EVFLAGS (R189): set the event-flag bits. -/
def commandCrEvflags (s : State) : Except FaultCode State := transformCrv (fun c => c ||| s.cfg.baEventMask) s

/-- CR.MODEBAR as an atomic step of DP. -/
def execCrModebar (s : State) : Out := finish .none s (commandCrModebar s)

/-- CR.MODEALT as an atomic step of DP. -/
def execCrModealt (s : State) : Out := finish .none s (commandCrModealt s)

/-- CR.STANDBY as an atomic step of DP. -/
def execCrStandby (s : State) : Out := finish .none s (commandCrStandby s)

/-- CR.ACTIVE as an atomic step of DP. -/
def execCrActive (s : State) : Out := finish .none s (commandCrActive s)

/-- CR.OSR as an atomic step of DP. -/
def execCrOsr (n : Nat) (s : State) : Out := finish .none s (commandCrOsr n s)

/-- CR.OSTCLR as an atomic step of DP. -/
def execCrOstclr (s : State) : Out := finish .none s (commandCrOstclr s)

/-- CR.OSTSET as an atomic step of DP. -/
def execCrOstset (s : State) : Out := finish .none s (commandCrOstset s)

/-- CR.EVFLAGS as an atomic step of DP. -/
def execCrEvflags (s : State) : Out := finish .none s (commandCrEvflags s)

end Sys2Proof.Machine
end

