-- ==== Sys2Proof/Machine/Gy.lean ====
section
/-! DEFINITION. Family GY, gyroscope decode and scaling (spec/41_gyroscope.md R130 to R135). -/

namespace Sys2Proof.Machine

/-- GY.BEGIN r (R131): on an identity match the range is set and the driver goes Active; on a mismatch
`RANGE` and `GYST` stay, "no partial state retained". -/
def commandGyBegin (r : Nat) (s : State) : Except FaultCode State := do
  needCount 1 s
  let ident ← sample 0 s
  if ident = s.cfg.gyIdExpected then
    return writeCheck true { s with range := some (BitVec.ofNat 2 r), gyst := .active }
  else
    return writeCheck false s

/-- The exact angular rate of R132, rad/s: the raw count times the sensitivity of the configured range times
`DEG2RAD`. The constant multiplies (spec/90_conflicts.md C1). -/
def gyRateValue (c : Cfg) (range : BitVec 2) (raw : Int) : Rat :=
  raw * c.sens[range.toNat]'(range.isLt) * c.deg2rad

/-- GY.EVENT (R132): NOTCFG, then SHORT, then NOVALUE (R251); `SB[0]`, the status, is counted and not read. -/
def commandGyEvent (s : State) : Except FaultCode State := do
  needActive s
  needCount 7 s
  let now ← need s.ticks
  let x1 ← sample 1 s
  let x0 ← sample 2 s
  let y1 ← sample 3 s
  let y0 ← sample 4 s
  let z1 ← sample 5 s
  let z0 ← sample 6 s
  let range ← need s.range
  return writeTriple (gyRateValue s.cfg range (be16s x1 x0)) (gyRateValue s.cfg range (be16s y1 y0))
    (gyRateValue s.cfg range (be16s z1 z0))
    { s with
      rawx := some (be16 x1 x0)
      rawy := some (be16 y1 y0)
      rawz := some (be16 z1 z0)
      evts := some now }

/-- The exact bound of R133, rad/s: `RANGE_DPS[RANGE] * DEG2RAD`. -/
def gyBoundValue (c : Cfg) (range : BitVec 2) : Rat :=
  c.rangeDps[range.toNat]'(range.isLt) * c.deg2rad

/-- GY.META (R133): minimum, maximum, resolution. -/
def commandGyMeta (s : State) : Except FaultCode State := do
  needActive s
  let range ← need s.range
  return writeTriple (-gyBoundValue s.cfg range) (gyBoundValue s.cfg range) 0 s

/-- GY.BEGIN as an atomic step of DP. -/
def execGyBegin (r : Nat) (s : State) : Out := finish .resb s (commandGyBegin r s)

/-- GY.EVENT as an atomic step of DP. -/
def execGyEvent (s : State) : Out := finish .res s (commandGyEvent s)

/-- GY.META as an atomic step of DP. -/
def execGyMeta (s : State) : Out := finish .res s (commandGyMeta s)

end Sys2Proof.Machine
end

