-- ==== Sys2Proof/Machine/Ht.lean ====
section
/-! DEFINITION. Family HT, humidity/temperature decode (spec/40_humidity_temperature.md R110 to R114). -/

namespace Sys2Proof.Machine

/-- HT.INITCHK (R111): the comparison is on all 8 bits; false is a result, not a fault. -/
def commandHtInitchk (s : State) : Except FaultCode State := do
  needCount 1 s
  let status ← sample 0 s
  return writeCheck (status == s.cfg.htResetSentinel) s

/-- The exact temperature of R112, °C: `raw * 175.72 / 65536 − 46.85`. -/
def htTempValue (raw : Nat) : Rat := raw * Config.htCMul / Config.htDiv - Config.htCOff

/-- HT.TEMP (R112). `SB[2]`, the checksum, is counted and not read. -/
def commandHtTemp (s : State) : Except FaultCode State := do
  needCount 3 s
  let b0 ← sample 0 s
  let b1 ← sample 1 s
  return writeScalar (htTempValue (be16u b0 b1)) s

/-- The exact relative humidity of R113, %: `raw * 125 / 65536 − 6`, not clamped. -/
def htHumValue (raw : Nat) : Rat := raw * Config.htHMul / Config.htDiv - Config.htHOff

/-- HT.HUM (R113). `SB[2]`, the checksum, is counted and not read. -/
def commandHtHum (s : State) : Except FaultCode State := do
  needCount 3 s
  let b0 ← sample 0 s
  let b1 ← sample 1 s
  return writeScalar (htHumValue (be16u b0 b1)) s

/-- HT.INITCHK as an atomic step of DP. -/
def execHtInitchk (s : State) : Out := finish .resb s (commandHtInitchk s)

/-- HT.TEMP as an atomic step of DP. -/
def execHtTemp (s : State) : Out := finish .res s (commandHtTemp s)

/-- HT.HUM as an atomic step of DP. -/
def execHtHum (s : State) : Out := finish .res s (commandHtHum s)

end Sys2Proof.Machine
end

