-- ==== Sys2Proof/Machine/Dispatch.lean ====
section
/-! DEFINITION. One arm per command: which meaning runs (spec/30_encoding.md R84). -/

namespace Sys2Proof.Machine

def exec (i : Instr) (s : State) : Host.Outcome State Fault Refusal :=
  match i with
  | .htInitchk => Sys2Proof.Machine.execHtInitchk s
  | .htTemp => Sys2Proof.Machine.execHtTemp s
  | .htHum => Sys2Proof.Machine.execHtHum s
  | .gyBegin r => Sys2Proof.Machine.execGyBegin r s
  | .gyEvent => Sys2Proof.Machine.execGyEvent s
  | .gyMeta => Sys2Proof.Machine.execGyMeta s
  | .baAlt => Sys2Proof.Machine.execBaAlt s
  | .baPres => Sys2Proof.Machine.execBaPres s
  | .baTemp => Sys2Proof.Machine.execBaTemp s
  | .baTmo => Sys2Proof.Machine.execBaTmo s
  | .baAltft => Sys2Proof.Machine.execBaAltft s
  | .baTempf => Sys2Proof.Machine.execBaTempf s
  | .crModebar => Sys2Proof.Machine.execCrModebar s
  | .crModealt => Sys2Proof.Machine.execCrModealt s
  | .crStandby => Sys2Proof.Machine.execCrStandby s
  | .crActive => Sys2Proof.Machine.execCrActive s
  | .crOsr n => Sys2Proof.Machine.execCrOsr n s
  | .crOstclr => Sys2Proof.Machine.execCrOstclr s
  | .crOstset => Sys2Proof.Machine.execCrOstset s
  | .crEvflags => Sys2Proof.Machine.execCrEvflags s

end Sys2Proof.Machine
end

