-- ==== Sys2Proof/Machine/Port.lean ====
section
/-! DEFINITION. DP's command port: a word is decoded and run as one atomic step, or raises ILLEGAL
(spec/30_encoding.md R80, R97; spec/60_exceptions.md R243); and what a command raises, which ACQ must
know to stop its sequence (spec/44_acquisition_sequences.md R201). -/

namespace Sys2Proof.Machine

/-- The command proper: its writes, or the one fault it raises (R251). -/
def command (i : Instr) (s : State) : Except FaultCode State :=
  match i with
  | .htInitchk => commandHtInitchk s
  | .htTemp => commandHtTemp s
  | .htHum => commandHtHum s
  | .gyBegin r => commandGyBegin r s
  | .gyEvent => commandGyEvent s
  | .gyMeta => commandGyMeta s
  | .baAlt => commandBaAlt s
  | .baPres => commandBaPres s
  | .baTemp => commandBaTemp s
  | .baTmo => commandBaTmo s
  | .baAltft => commandBaAltft s
  | .baTempf => commandBaTempf s
  | .crModebar => commandCrModebar s
  | .crModealt => commandCrModealt s
  | .crStandby => commandCrStandby s
  | .crActive => commandCrActive s
  | .crOsr n => commandCrOsr n s
  | .crOstclr => commandCrOstclr s
  | .crOstset => commandCrOstset s
  | .crEvflags => commandCrEvflags s

/-- The destination whose valid bit the command's fault clears (R241). -/
def destOf : Instr → Dest
  | .htTemp | .htHum | .gyEvent | .gyMeta | .baAlt | .baPres | .baTemp => .res
  | .baAltft | .baTempf => .res0
  | .htInitchk | .gyBegin _ => .resb
  | .baTmo | .crModebar | .crModealt | .crStandby | .crActive | .crOsr _ | .crOstclr | .crOstset
  | .crEvflags => .none

/-- The fault a command raises in a state, if any. -/
def raisedBy (i : Instr) (s : State) : Option FaultCode :=
  match command i s with
  | .ok _ => none
  | .error c => some c

/-- A word presented on DP's command port (R80): a legal one runs, any other raises ILLEGAL at decode, before
any state is read, with no other effect (R97, R243). -/
def runWord (w : Cmd) (s : State) : Out :=
  match decode w with
  | .ok i => exec i s
  | .error _ => .next (raise .illegal .none s)

end Sys2Proof.Machine
end

