-- ==== Sys2Proof/Machine/Sequences.lean ====
section
/-! DEFINITION. The texts of ACQ's sequences (spec/44_acquisition_sequences.md R204 to R219), each a list of
actions with the instance's constants filled in. Use of one text inside another is inclusion (R203 f);
`join` marks where an included text's early `return` goes. -/

namespace Sys2Proof.Machine

/-- The action that presents a command to DP. -/
def cmd (i : Instr) : Act := .dp (encode i)

/-- `initialize` (R204). -/
def textInitHt (c : Cfg) : List Act :=
  [.busCmd .ht c.htCmdReset, .delay c.htSettleMs, .busRead .ht (some c.htRegStatus) 1 true, cmd .htInitchk,
    .ret .bool]

/-- `readTemperature` (R205); no register address is written before the read. -/
def textReadTemperature (c : Cfg) : List Act :=
  [.busCmd .ht c.htCmdTemp, .delay c.htConvMs, .busRead .ht none 3 true, cmd .htTemp, .ret .number]

/-- `readHumidity` (R206). -/
def textReadHumidity (c : Cfg) : List Act :=
  [.busCmd .ht c.htCmdHum, .delay c.htConvMs, .busRead .ht none 3 true, cmd .htHum, .ret .number]

/-- `begin(range)` (R207): clear, soft reset, run. -/
def textBeginGy (c : Cfg) (r : BitVec 2) : List Act :=
  [.busRead .gy (some c.gyWhoAmI) 1 false, cmd (.gyBegin r.toNat), .exitUnlessResb,
    .busWrite .gy c.gyCtrlReg1 0x00, .busWrite .gy c.gyCtrlReg1 c.gyCr1Reset,
    .busWrite .gy c.gyCtrlReg1 c.gyCr1Run, .delay c.gySettleMs, .join, .ret .bool]

/-- `getEvent` (R208): the burst starts at the status register with the auto-increment bit set (R57). -/
def textGetEvent (c : Cfg) : List Act :=
  [.latchTicks, .busRead .gy (some (c.gyStatus ||| c.gyAutoinc)) 7 false, cmd .gyEvent, .ret .event]

/-- `getSensorMetadata` (R209): no bus activity. -/
def textGetSensorMetadata : List Act := [cmd .gyMeta, .ret .metadata]

/-- One read-modify-write of a control register of the barometric sensor (R212). -/
def readModifyWrite (reg : Byte) (op : Instr) : List Act :=
  [.loadCrv .ba reg, cmd op, .busWriteCrv .ba reg]

/-- `toggleOneShot` (R211): clear, then set, the trigger bit, as two read-modify-writes. -/
def textToggle (c : Cfg) : List Act :=
  readModifyWrite c.baCtrlReg1 .crOstclr ++ readModifyWrite c.baCtrlReg1 .crOstset

/-- A setter (R212). -/
def textSetter (reg : Byte) (op : Instr) : List Act := readModifyWrite reg op ++ [.ret .unit]

/-- `Poll(mask)` (R213). -/
def textPoll (mask : Byte) : List Act := [.pollInit, .pollRead mask]

/-- `readAltitude` (R214), up to its return. -/
def bodyReadAltitude (c : Cfg) : List Act :=
  textToggle c ++ textPoll c.baRdyAlt ++ [.busRead .ba (some c.baOutPMsb) 3 false, cmd .baAlt, .join]

/-- `readPressure` (R216), up to its return. -/
def bodyReadPressure (c : Cfg) : List Act :=
  [.preCheck Config.baRdyPres c.presPrecheckEffective] ++ textPoll Config.baRdyPres ++
    [.busRead .ba (some c.baOutPMsb) 3 false, cmd .baPres] ++ textToggle c ++ [.join]

/-- `readTemp` (R217), up to its return. -/
def bodyReadTemp (c : Cfg) : List Act :=
  [.preCheck c.baRdyTemp c.tempPrecheckEffective] ++ textPoll c.baRdyTemp ++
    [.busRead .ba (some c.baOutTMsb) 2 false, cmd .baTemp] ++ textToggle c ++ [.join]

/-- The text of a driver call (R99). -/
def textOf (c : Cfg) : DriverCall → List Act
  | .initHt => textInitHt c
  | .readTemperature => textReadTemperature c
  | .readHumidity => textReadHumidity c
  | .beginGy r => textBeginGy c r
  | .getEvent => textGetEvent c
  | .getSensorMetadata => textGetSensorMetadata
  | .toggleOneShot => textToggle c ++ [.ret .unit]
  | .setModeBarometer => textSetter c.baCtrlReg1 .crModebar
  | .setModeAltimeter => textSetter c.baCtrlReg1 .crModealt
  | .setModeStandby => textSetter c.baCtrlReg1 .crStandby
  | .setModeActive => textSetter c.baCtrlReg1 .crActive
  | .setOversampleRate n => textSetter c.baCtrlReg1 (.crOsr n.toNat)
  | .enableEventFlags => textSetter c.baPtDataCfg .crEvflags
  | .readAltitude => bodyReadAltitude c ++ [.ret .number]
  | .readPressure => bodyReadPressure c ++ [.ret .number]
  | .readTemp => bodyReadTemp c ++ [.ret .number]
  | .readAltitudeFt => bodyReadAltitude c ++ [cmd .baAltft, .ret .number]
  | .readTempF => bodyReadTemp c ++ [cmd .baTempf, .ret .number]

/-- The rest of a text after an early `return`: from the end of the included text on (R203 e, f). -/
def afterReturn : List Act → List Act
  | [] => []
  | .join :: rest => .join :: rest
  | _ :: rest => afterReturn rest

end Sys2Proof.Machine
end

