-- ==== Sys2Proof/Machine/Acq.lean ====
section
/-! DEFINITION. Agent ACQ: one action of a sequence (spec/20_memory.md R60 to R66; spec/44_acquisition_sequences.md
R200 to R217), and what a step does for the host (spec/70_reset_and_hazards.md R277). -/

namespace Sys2Proof.Machine

/-- A fault stops the sequence at that point, and nothing valid is returned (R201). -/
def stopSequence (s : State) : State := { s with acq := [], ret := some .nothing }

/-- A sequence ends with a return value (R202). -/
def returnWith (r : Ret) (s : State) : State := { s with acq := [], ret := some r }

/-- `beginTransaction; write(reg); endTransaction(stop)`, the address phase of a read (R62, R66); the returned
status is ignored. -/
def addressPhase (c : Cfg) (dev : Dev) (reg : Byte) : List BusEvent :=
  [.beginTransaction (devAddr c dev), .write reg, .endTransaction (devStop c dev)]

/-- `BusCmd(dev, b)` (R63). -/
def actBusCmd (dev : Dev) (b : Byte) (s : State) : State :=
  emit [.beginTransaction (devAddr s.cfg dev), .write b, .endTransaction true] s

/-- `BusWrite(dev, reg, v)` (R63). -/
def actBusWrite (dev : Dev) (reg v : Byte) (s : State) : State :=
  emit [.beginTransaction (devAddr s.cfg dev), .write reg, .write v, .endTransaction true] s

/-- `BusRead(dev, reg?, n)` up to `requestRead` (R62): what remains is the wait, if any, and the bytes. -/
def actBusRead (dev : Dev) (reg : Option Byte) (n : Nat) (wait : Bool) (s : State) : State :=
  { emit ((match reg with | some r => addressPhase s.cfg dev r | none => []) ++
      [.requestRead (devAddr s.cfg dev) n]) s with
    env := (drawCount n s.env).2
    acq := (if wait then [.waitAvail] else []) ++ .fill (drawCount n s.env).1 :: s.acq }

/-- One test of `dataAvailable()`: while it is false ACQ stays in the wait (R65). -/
def actWaitAvail (s : State) : State :=
  { s with
    env := (drawAvail s.env).2
    acq := if (drawAvail s.env).1 then s.acq else .waitAvail :: s.acq }

/-- The bytes of a burst (R62): `SB[i] <- read()` for `i < min(k, 7)`, the other cells `novalue`, and the count. -/
def actFill (k : Nat) (s : State) : State :=
  { emit (List.replicate (min k 7) .read) s with
    sb := Vector.ofFn fun i => (drawBytes (min k 7) s.env).1[i.val]?
    sbcnt := BitVec.ofNat 3 (min k 7)
    env := (drawBytes (min k 7) s.env).2 }

/-- `BusRead8(dev, reg)` (R66): its byte, or nothing when `actualCount ≠ 1`, and the state after it. -/
def busRead8 (dev : Dev) (reg : Byte) (s : State) : Option Byte × State :=
  if (drawCount 1 s.env).1 = 1 then
    (some (drawByte (drawCount 1 s.env).2).1,
      { emit (addressPhase s.cfg dev reg ++ [.requestRead (devAddr s.cfg dev) 1, .read]) s with
        env := (drawByte (drawCount 1 s.env).2).2 })
  else
    (none,
      { emit (addressPhase s.cfg dev reg ++ [.requestRead (devAddr s.cfg dev) 1]) s with
        env := (drawCount 1 s.env).2 })

/-- The destination of what a sequence returns (R202). -/
def RetKind.dest : RetKind → Dest
  | .unit => .none
  | .bool => .resb
  | .number | .event | .metadata => .res

/-- The destination of the running sequence, read off the return at the end of its text (R201, log entry 11). -/
def destOfText : List Act → Dest
  | [] => .none
  | .ret k :: _ => k.dest
  | _ :: rest => destOfText rest

/-- `BusRead8` and what follows it. A count other than 1 raises SHORT, with the valid bit of the sequence's
destination cleared, and the sequence stops (R66, R201, R241, R242). -/
def withRead8 (dev : Dev) (reg : Byte) (k : Byte → State → State) (s : State) : State :=
  match busRead8 dev reg s with
  | (some b, t) => k b t
  | (none, t) => stopSequence (raise .short (destOfText t.acq) t)

/-- `CRV <- BusRead8(dev, reg)` (R32, R212). -/
def actLoadCrv (dev : Dev) (reg : Byte) (s : State) : State :=
  withRead8 dev reg (fun b t => { t with crv := some b }) s

/-- `PreCheck(mask, effective)` (R215): the read always happens; the toggle only when it is effective. -/
def actPreCheck (mask : Byte) (effective : Bool) (s : State) : State :=
  withRead8 .ba s.cfg.baStatus
    (fun b t => if effective && !ready b mask then { t with acq := textToggle s.cfg ++ t.acq } else t) s

/-- One turn of the poll loop (R213): ready; or the 600th status read, and then the timeout path
`BA.TMO; return` of the calling text (R214, R216, R217); or a delay and another turn. -/
def actPollRead (mask : Byte) (s : State) : State :=
  withRead8 .ba s.cfg.baStatus
    (fun b t =>
      if ready b mask then t
      else if (t.pollcnt + 1).toNat = Config.pollMax then
        { t with pollcnt := t.pollcnt + 1, acq := cmd .baTmo :: afterReturn t.acq }
      else
        { t with pollcnt := t.pollcnt + 1, acq := .delay Config.pollSpacingMs :: .pollRead mask :: t.acq }) s

/-- `TICKS <- monotonicTicks() mod 2^32` (R34, R208). -/
def actLatchTicks (s : State) : State :=
  { emit [.monotonicTicks] s with
    ticks := some (BitVec.ofNat 32 (drawTicks s.env).1)
    env := (drawTicks s.env).2 }

/-- What a sequence returns, read from DP's registers as the host would read them (R202). -/
def returnValue (k : RetKind) (s : State) : Option Ret :=
  match k with
  | .unit => some .unit
  | .bool =>
    match hostView .resb s with
    | some (.flag b) => some (.bool b)
    | _ => none
  | .number =>
    match hostView .res0 s with
    | some (.number f) => some (.number f)
    | _ => none
  | .event =>
    match hostView .res0 s, hostView .res1 s, hostView .res2 s, s.evts with
    | some (.number x), some (.number y), some (.number z), some t =>
      some (.event x y z t s.cfg.gyTypeTag s.cfg.gySensorId)
    | _, _, _, _ => none
  | .metadata =>
    match hostView .res0 s, hostView .res1 s, hostView .res2 s with
    | some (.number lo), some (.number hi), some (.number res) => some (.metadata s.cfg.gyName lo hi res)
    | _, _, _ => none

/-- The end of a DP command inside a sequence that raised a fault: the sequence stops (R201). -/
def thenStop (o : Out) : Out :=
  match o with
  | .next t => .next (stopSequence t)
  | .fault r => .fault r
  | .refused r => .refused r

/-- A command that ACQ presents to DP (R33, R201). -/
def actDp (w : Cmd) (s : State) : Out :=
  match decode w with
  | .ok i =>
    match raisedBy i s with
    | none => runWord w s
    | some _ => thenStop (runWord w s)
  | .error _ => thenStop (runWord w s)

/-- One action of ACQ; `s` is the state with the action taken off the running text. -/
def runAct (a : Act) (s : State) : Out :=
  match a with
  | .busCmd dev b => .next (actBusCmd dev b s)
  | .busWrite dev reg v => .next (actBusWrite dev reg v s)
  | .busWriteCrv dev reg =>
    match s.crv with
    | some v => .next (actBusWrite dev reg v s)
    | none => .fault .acqReadNovalue
  | .busRead dev reg n wait => .next (actBusRead dev reg n wait s)
  | .waitAvail => .next (actWaitAvail s)
  | .fill k => .next (actFill k s)
  | .loadCrv dev reg => .next (actLoadCrv dev reg s)
  | .preCheck mask effective => .next (actPreCheck mask effective s)
  | .pollInit => .next { s with pollcnt := 0 }
  | .pollRead mask => .next (actPollRead mask s)
  | .delay ms => .next (emit [.delay ms] s)
  | .latchTicks => .next (actLatchTicks s)
  | .dp w => actDp w s
  | .exitUnlessResb =>
    match hostView .resb s with
    | some (.flag true) => .next s
    | some (.flag false) => .next { s with acq := afterReturn s.acq }
    | _ => .fault .acqReadNovalue
  | .join => .next s
  | .ret k =>
    match returnValue k s with
    | some r => .next (returnWith r s)
    | none => .fault .acqReadNovalue

/-- The reset event (R270): every register at its reset value. The configuration of the instance, the host's
further requests and the environment are not registers; the sensors are not touched (R271). -/
def resetEvent (s : State) : State :=
  { State.reset with cfg := s.cfg, host := s.host, env := s.env, bus := s.bus }

/-- One request of the host, taken when ACQ is idle (R277, R283); `s` is the state with the request taken. A read of a
register that holds `novalue` is a fault of the model, "never a value" (R21; D8; spec/93 U17). -/
def serveHost (r : HostReq) (s : State) : Out :=
  match r with
  | .reset => .next (resetEvent s)
  | .start c => .next { s with acq := textOf s.cfg c }
  | .command w => runWord w s
  | .read reg =>
    match hostView reg s with
    | some v => .next { s with hostOut := some v }
    | none => .fault (.hostReadNovalue reg)

end Sys2Proof.Machine
end

