-- ==== Sys2Proof/Machine/Step.lean ====
section
/-! DEFINITION. One step of the SFE: the next action of the running sequence; or, when ACQ is idle, the host's
next request; or, with neither, waiting (spec/10_state.md R33, spec/70_reset_and_hazards.md R272, R283). -/

namespace Sys2Proof.Machine

/-- One step. There is no program counter and no fetch (R33): a command comes from the running sequence or from
the host's requests. -/
def step (s : State) : Host.Outcome State Fault Refusal :=
  match s.acq with
  | a :: rest => runAct a { s with acq := rest }
  | [] =>
    match s.host with
    | r :: rest => serveHost r { s with host := rest }
    | [] => .next s

/-- `s` with the word presented as the host's next request and no sequence running, so that the very next step
runs it (log entry 7: a program is what the host presents, there is no program memory). -/
def State.withFetchWord (s : State) (nbits w : Nat) : State :=
  { s with acq := [], host := .command (BitVec.ofNat 16 (w % 2 ^ nbits)) :: s.host }

end Sys2Proof.Machine
end

