-- ==== Sys2Proof/Safety.lean ====
section
/-! DEFINITION. What counts as a good run, in the terms the statements use: the faulted and the final states
(spec/10_state.md R30, spec/70_reset_and_hazards.md R277), and the relations between the registers that every
step keeps. -/

namespace Sys2Proof.Machine

/-- A faulted state: "never a final state a claim may accept" (R30). -/
def State.faulted (s : State) : Prop := s.flt ≠ 0

/-- The end of a run: ACQ idle and DP idle, nothing left to do for the host (R277). -/
def State.idle (s : State) : Prop := s.acq = [] ∧ s.host = []

/-- A final state a claim may accept (R30, R277). -/
def State.goodFinal (s : State) : Prop := s.idle ∧ ¬ s.faulted

/-- The next thing that happens is the reset event. -/
def State.resetNext (s : State) : Prop := s.acq = [] ∧ ∃ rest, s.host = .reset :: rest

/-- A result register that is not a NaN (R100 e). -/
def notNaN (r : Option F) : Prop := ∀ b, r = some (.b32 b) → b32NaN b = false

/-- The sample buffer holds a byte in exactly the cells below `SBCNT` (R22, R23). -/
def State.sampleInv (s : State) : Prop := ∀ i : Fin 7, s.sb[i].isSome = true ↔ i.val < s.sbcnt.toNat

/-- The gyroscope driver is Active exactly when a range is set (R24, R25), and the RawAxes and the timestamp
are written together, from a latched tick (R26, R31, R34). -/
def State.gyroInv (s : State) : Prop :=
  (s.gyst = .active ↔ s.range.isSome = true)
    ∧ s.rawx.isSome = s.evts.isSome ∧ s.rawy.isSome = s.evts.isSome ∧ s.rawz.isSome = s.evts.isSome
    ∧ (s.evts.isSome = true → s.ticks.isSome = true)

/-- A set valid bit stands for a register that holds a value (R20: `RESV`, `RESBV`), and no result is a NaN. -/
def State.resultInv (s : State) : Prop :=
  (s.resv.getLsbD 0 = true → s.res0.isSome = true)
    ∧ (s.resv.getLsbD 1 = true → s.res1.isSome = true)
    ∧ (s.resv.getLsbD 2 = true → s.res2.isSome = true)
    ∧ (s.resbv = true → s.resb.isSome = true)
    ∧ notNaN s.res0 ∧ notNaN s.res1 ∧ notNaN s.res2

/-- The invariant of the registers. -/
def State.RegInv (s : State) : Prop := s.sampleInv ∧ s.gyroInv ∧ s.resultInv

/-- A text in which every poll loop is entered through `POLLCNT <- 0` (R213). -/
def pollsGuarded : List Act → Bool
  | [] => true
  | .pollInit :: .pollRead _ :: rest => pollsGuarded rest
  | .pollRead _ :: _ => false
  | _ :: rest => pollsGuarded rest

/-- The invariant of the bounded poll: `POLLCNT` never exceeds 600 (R34), and ACQ stands outside a poll loop, or
inside one with the count still below 600. -/
def State.PollInv (s : State) : Prop :=
  s.pollcnt.toNat ≤ 600 ∧
    (pollsGuarded s.acq = true
      ∨ (s.pollcnt.toNat < 600 ∧
          ∃ mask rest, pollsGuarded rest = true ∧
            (s.acq = .pollRead mask :: rest ∨ ∃ ms, s.acq = .delay ms :: .pollRead mask :: rest)))

/-- How many requests for one byte of the barometric sensor a record of bus events holds; in a poll these are
the status reads. -/
def oneByteRequests (c : Cfg) (evs : List BusEvent) : Nat :=
  evs.countP fun e => e == .requestRead c.baAddr 1

/-- Two commands, one after the other. -/
def execThen (i j : Instr) (s : State) : Out :=
  match exec i s with
  | .next t => exec j t
  | .fault r => .fault r
  | .refused r => .refused r

/-- The field of `CTRL_REG1` a command writes: mode 0, standby/active 1, one-shot trigger 2, oversample rate 3
(R92, R180). CR.EVFLAGS writes another register. -/
def ctrlField : Instr → Option Nat
  | .crModebar | .crModealt => some 0
  | .crStandby | .crActive => some 1
  | .crOstclr | .crOstset => some 2
  | .crOsr _ => some 3
  | .htInitchk | .htTemp | .htHum | .gyBegin _ | .gyEvent | .gyMeta | .baAlt | .baPres | .baTemp | .baTmo
  | .baAltft | .baTempf | .crEvflags => none

/-- The exact value of `SBCNT` a command needs, if it reads the sample (R23, R84). -/
def expectedCount : Instr → Option Nat
  | .htInitchk | .gyBegin _ => some 1
  | .htTemp | .htHum | .baAlt | .baPres => some 3
  | .baTemp => some 2
  | .gyEvent => some 7
  | .gyMeta | .baTmo | .baAltft | .baTempf | .crModebar | .crModealt | .crStandby | .crActive | .crOsr _
  | .crOstclr | .crOstset | .crEvflags => none

/-- The state less the RawAxes, for comparing runs that differ in them (R26). -/
def State.eraseRaw (s : State) : State := { s with rawx := none, rawy := none, rawz := none }

/-- The state less `TMO`, `FLT` and `RESB`, for comparing runs that differ in them (R35). -/
def State.eraseStatus (s : State) : State := { s with tmo := false, flt := 0, resb := none }

/-- The next thing that happens is a host read of a RawAxes register. -/
def State.rawReadNext (s : State) : Prop :=
  s.acq = [] ∧ ∃ rest, s.host = .read .rawx :: rest ∨ s.host = .read .rawy :: rest ∨ s.host = .read .rawz :: rest

/-- The bus events of `BusRead8(dev, reg)` when its byte arrives (R66). -/
def read8Events (c : Cfg) (dev : Dev) (reg : Byte) : List BusEvent :=
  [.beginTransaction (devAddr c dev), .write reg, .endTransaction (devStop c dev),
    .requestRead (devAddr c dev) 1, .read]

/-- The bus events of `BusWrite(dev, reg, v)` (R63). -/
def writeEvents (c : Cfg) (dev : Dev) (reg v : Byte) : List BusEvent :=
  [.beginTransaction (devAddr c dev), .write reg, .write v, .endTransaction true]

/-- The bus events of `toggleOneShot` when the two reads of `CTRL_REG1` give `c1` and `c2` (R211). -/
def toggleEvents (c : Cfg) (c1 c2 : Byte) : List BusEvent :=
  read8Events c .ba c.baCtrlReg1 ++ writeEvents c .ba c.baCtrlReg1 (clrbit c1 c.baOstBit.val) ++
    read8Events c .ba c.baCtrlReg1 ++ writeEvents c .ba c.baCtrlReg1 (setbit c2 c.baOstBit.val)

/-- The bus events of a burst of the barometric sensor that delivers all `n` bytes (R62). -/
def burstEvents (c : Cfg) (reg : Byte) (n : Nat) : List BusEvent :=
  addressPhase c .ba reg ++ [.requestRead c.baAddr n] ++ List.replicate n .read

/-- The bus events of `PreCheck(mask, effective)` on the bytes it reads: the status alone, or, where it triggers a
conversion, the status and the two values of `CTRL_REG1`; nothing for bytes it does not read so (R215). -/
def preCheckEvents (c : Cfg) (mask : Byte) (effective : Bool) : List Byte → Option (List BusEvent)
  | [st] =>
    if effective = true ∧ st &&& mask = 0 then none else some (read8Events c .ba c.baStatus)
  | [st, c1, c2] =>
    if effective = true ∧ st &&& mask = 0 then some (read8Events c .ba c.baStatus ++ toggleEvents c c1 c2) else none
  | _ => none

/-- Every register by its name, with the value a host read of it gives, if it gives one (R20, R21, R277; a result
whose valid bit is clear gives none, log entry 12). -/
def registerTable (s : State) : List (Reg × Option RegVal) :=
  ((List.finRange 7).map fun i => (.sb i, s.sb[i].map fun b => .bits b.toNat)) ++
  [(.sbcnt, some (.bits s.sbcnt.toNat)), (.range, s.range.map fun r => .bits r.toNat),
    (.gyst, some (.flag (decide (s.gyst = .active)))), (.rawx, s.rawx.map fun v => .signed v.toInt),
    (.rawy, s.rawy.map fun v => .signed v.toInt), (.rawz, s.rawz.map fun v => .signed v.toInt)] ++
  [(.res0, if s.resv.getLsbD 0 then s.res0.map .number else none),
    (.res1, if s.resv.getLsbD 1 then s.res1.map .number else none),
    (.res2, if s.resv.getLsbD 2 then s.res2.map .number else none), (.resv, some (.bits s.resv.toNat)),
    (.resb, if s.resbv then s.resb.map .flag else none), (.resbv, some (.flag s.resbv))] ++
  [(.tmo, some (.flag s.tmo)), (.flt, some (.bits s.flt.toNat)), (.evts, s.evts.map fun t => .bits t.toNat),
    (.crv, s.crv.map fun c => .bits c.toNat), (.ticks, s.ticks.map fun t => .bits t.toNat),
    (.pollcnt, some (.bits s.pollcnt.toNat))]

/-- The registers a sequence's return is read from (R202, R209). -/
def returnRegs : RetKind → List Reg
  | .unit => []
  | .bool => [.resb]
  | .number => [.res0]
  | .event => [.res0, .res1, .res2, .evts]
  | .metadata => [.res0, .res1, .res2]

/-- The legal words of format N, in the order of R84. -/
def plainWords : List Cmd :=
  [0x0100, 0x0200, 0x0300, 0x1100, 0x1200] ++ [0x2000, 0x2100, 0x2200, 0x2300, 0x2400, 0x2500] ++
    [0x3000, 0x3100, 0x3200, 0x3300, 0x3500, 0x3600, 0x3700]

/-- The words of GY.BEGIN, `0x1000..0x1003` (R101). -/
def rangeWords : List Cmd := [0x1000, 0x1001, 0x1002, 0x1003]

/-- The words of CR.OSR, `0x3400..0x34FF` (R101). -/
def rateWords : List Cmd := (List.range 256).map fun n => BitVec.ofNat 16 (0x3400 + n)

/-- A command that writes `TMO`, setting or clearing it, when it raises nothing (R20, R29). -/
def writesTmo (i : Instr) : Prop :=
  i ∈ [Instr.htTemp, .htHum, .gyEvent, .gyMeta, .baAlt, .baPres, .baTemp, .baTmo]

/-- A command that writes `RESB` when it raises nothing (R20, R28). -/
def writesResb (i : Instr) : Prop := i = .htInitchk ∨ ∃ r, i = .gyBegin r

/-- The six setters of R212: the call, the register it edits, and the command that edits it. -/
def setters (c : Cfg) (n : BitVec 8) : List (DriverCall × Byte × Instr) :=
  [(.setModeBarometer, c.baCtrlReg1, .crModebar), (.setModeAltimeter, c.baCtrlReg1, .crModealt),
    (.setModeStandby, c.baCtrlReg1, .crStandby), (.setModeActive, c.baCtrlReg1, .crActive),
    (.setOversampleRate n, c.baCtrlReg1, .crOsr n.toNat), (.enableEventFlags, c.baPtDataCfg, .crEvflags)]

end Sys2Proof.Machine
end

