-- ==== Sys2Proof/Certificates/Slice0/Obligations.lean ====
section
/-! DEFINITION. The statements for the provers, from the numbered rules of spec/. Every statement quantifies over
all configurations, since the configuration is a field of the state; none rests on a free value. -/

open Sys2Proof Sys2Proof.Machine

/-! ## Encoding -/

/-- Decoding the encoding of a well-formed instruction gives the instruction back, with its operand at every
value the encoding admits (R81, R84). -/
def Obligations.DecodeOfEncodeIsTheInstruction : Prop :=
  ∀ i : Instr, i.WellFormed → decode (encode i) = .ok i

/-- A word that decodes is the encoding of a well-formed instruction: each legal word has one meaning, and no bit
of a word is ignored. -/
def Obligations.EncodeOfDecodedWordIsTheWord : Prop :=
  ∀ (w : Cmd) (i : Instr), decode w = .ok i → i.WellFormed ∧ encode i = w

/-- R97, R243: the decoder accepts exactly the words that match a row of the table under that row's mask, with
that row's mnemonic; any other word sets `FLT[1]` and changes nothing else, whatever the state. -/
def Obligations.UnlistedWordsRaiseIllegalAndNothingElse : Prop :=
  ∀ w : Cmd,
    ((∃ i, decode w = .ok i) ↔ ∃ row ∈ opcodeTable, row.covers w = true) ∧
    (∀ i, decode w = .ok i → ∃ row ∈ opcodeTable, row.covers w = true ∧ row.mnemonic = i.mnemonic) ∧
    ((∀ row ∈ opcodeTable, row.covers w = false) →
      ∀ s : State, runWord w s = .next { s with flt := s.flt ||| 0b0010 })

/-- R101: the legal words are 278: one for each of the 18 commands without an operand, `0x1000..0x1003` for GY.BEGIN
and `0x3400..0x34FF` for CR.OSR; every other word of the 65536 raises ILLEGAL. -/
def Obligations.LegalWordCountIs278 : Prop :=
  plainWords.length = 18 ∧ rangeWords.length = 4 ∧ rateWords.length = 256 ∧
  (plainWords ++ rangeWords ++ rateWords).Nodup ∧ (plainWords ++ rangeWords ++ rateWords).length = 278 ∧
  plainWords.map decode = plainInstrs.map .ok ∧ (∀ i ∈ plainInstrs, i.operand = none) ∧
  rangeWords.map decode = (List.range 4).map (fun r => .ok (.gyBegin r)) ∧
  (∀ n, n < 256 → BitVec.ofNat 16 (0x3400 + n) ∈ rateWords ∧ decode (BitVec.ofNat 16 (0x3400 + n)) = .ok (.crOsr n)) ∧
  (∀ w, w ∉ plainWords ++ rangeWords ++ rateWords → ∀ s : State, runWord w s = .next { s with flt := s.flt ||| 0b0010 })

/-- Sample words of every family, written out from R84, decode to the instruction they stand for (a sanity check). -/
def Obligations.SampleWordsDecode : Prop :=
  decode 0b0000000100000000 = .ok .htInitchk ∧ decode 0b0000001000000000 = .ok .htTemp ∧
  decode 0b0001000000000010 = .ok (.gyBegin 2) ∧ decode 0b0001000100000000 = .ok .gyEvent ∧
  decode 0b0010000100000000 = .ok .baPres ∧ decode 0b0010001000000000 = .ok .baTemp ∧
  decode 0b0011010011111111 = .ok (.crOsr 255) ∧ decode 0b0011011100000000 = .ok .crEvflags

/-! ## A step -/

/-- A command the host presents runs as one atomic step when ACQ is idle: `step` is `exec` of the decoded
instruction, the request taken. The same of `withFetchWord`. That the host's requests stand in a list is the model's
choice (log entries 7, 8). -/
def Obligations.HostCommandStepRunsTheDecodedInstruction : Prop :=
  ∀ (s : State) (w : Cmd) (i : Instr), decode w = .ok i →
    (∀ rest, s.acq = [] → s.host = .command w :: rest → step s = exec i { s with host := rest }) ∧
    step (s.withFetchWord 16 w.toNat) = exec i { s with acq := [] }

/-- A command ACQ presents runs as one atomic step between its bus primitives, and its fault stops the sequence
at that point: nothing valid is returned and no later action is performed (R201). What counts as one step of ACQ
is the model's choice (log entry 3). -/
def Obligations.SequenceCommandRunsOrStopsTheSequence : Prop :=
  ∀ (s : State) (w : Cmd) (i : Instr) (rest : List Act), decode w = .ok i → s.acq = .dp w :: rest →
    (raisedBy i { s with acq := rest } = none → step s = exec i { s with acq := rest }) ∧
    (∀ c, raisedBy i { s with acq := rest } = some c →
      ∃ t, exec i { s with acq := rest } = .next t ∧ t.flt = s.flt ||| c.mask ∧
        step s = .next { t with acq := [], ret := some .nothing })

/-- With no sequence running and no request of the host, the machine waits (R272); a request to start a sequence
makes its text ACQ's position (R200). The list of requests is the model's choice (log entry 8). -/
def Obligations.IdleMachineWaitsAndStartsSequences : Prop :=
  ∀ s : State, s.acq = [] →
    (s.host = [] → step s = .next s) ∧
    (∀ call rest, s.host = .start call :: rest →
      step s = .next { s with host := rest, acq := textOf s.cfg call })

/-- While a sequence runs no request of the host is taken: it cannot be cancelled or interleaved (R200, R283). That a
request waits in the list until then is the model's choice (log entry 8). -/
def Obligations.RunningSequenceTakesNoHostRequest : Prop :=
  ∀ s t : State, s.acq ≠ [] → step s = .next t → t.host = s.host

/-- No step is ever refused, and a step stops only at a read of a register that holds `novalue` (R21): one the host
asks for, a result with a clear valid bit being such a register (DEDUCED, log entry 12), or one of ACQ (DEDUCED, log
entry 10): `CRV` written back, `RESB` tested, or a register that a return value is read from. -/
def Obligations.StepStopsOnlyAtNovalueReads : Prop :=
  ∀ s : State, (∀ r, step s ≠ .refused r) ∧
    (∀ r, step s = .fault (.hostReadNovalue r) →
      s.acq = [] ∧ (∃ rest, s.host = .read r :: rest) ∧ (r, none) ∈ registerTable s) ∧
    (step s = .fault .acqReadNovalue →
      ∃ a rest, s.acq = a :: rest ∧
        (((∃ dev reg, a = .busWriteCrv dev reg) ∧ s.crv = none) ∨
          (a = .exitUnlessResb ∧ (.resb, none) ∈ registerTable s) ∨
          (∃ k, a = .ret k ∧ ∃ r ∈ returnRegs k, (r, none) ∈ registerTable s)))

/-- R36: no step writes the configuration record. -/
def Obligations.ConfigurationIsNeverWritten : Prop :=
  ∀ s t : State, step s = .next t → t.cfg = s.cfg

/-! ## Reset -/

/-- R270: the registers after reset, and after a reset event from any state; neither touches the environment. That the
reset event is also a request of the host, which keeps the environment and the record of bus events, is the model's
choice (log entry 13). -/
def Obligations.ResetPutsEveryRegisterAtItsResetValue : Prop :=
  ∀ s r : State, r = State.reset ∨ r = resetEvent s →
    r.gyst = .uninitialized ∧ r.sbcnt = 0 ∧ r.resv = 0 ∧ r.resbv = false ∧ r.tmo = false ∧ r.flt = 0 ∧
    r.pollcnt = 0 ∧ (∀ i : Fin 7, r.sb[i] = none) ∧ r.range = none ∧ r.rawx = none ∧ r.rawy = none ∧
    r.rawz = none ∧ r.res0 = none ∧ r.res1 = none ∧ r.res2 = none ∧ r.resb = none ∧ r.evts = none ∧
    r.crv = none ∧ r.ticks = none ∧ r.acq = [] ∧
    (∀ rest, s.acq = [] → s.host = .reset :: rest →
      ∃ t, step s = .next t ∧ t = resetEvent { s with host := rest } ∧ t.env = s.env ∧ t.bus = s.bus ∧
        t.cfg = s.cfg)

/-- R30, R25, R253: only the reset event clears a bit of `FLT` or makes the gyroscope Uninitialized. -/
def Obligations.OnlyResetClearsFaultBitsAndGyroState : Prop :=
  ∀ s t : State, ¬ s.resetNext → step s = .next t →
    s.flt &&& t.flt = s.flt ∧ (s.gyst = .active → t.gyst = .active)

/-! ## Family HT -/

/-- R111: HT.INITCHK compares all 8 bits with the sentinel; a count other than 1 raises SHORT. -/
def Obligations.HtInitchkComparesStatusWithSentinel : Prop :=
  ∀ s : State,
    (∀ b, s.sbcnt.toNat = 1 → s.sb[0] = some b →
      exec .htInitchk s =
        .next { s with resb := some (decide (b = s.cfg.htResetSentinel)), resbv := true }) ∧
    (s.sbcnt.toNat ≠ 1 → exec .htInitchk s = .next { s with flt := s.flt ||| 0b0001, resbv := false })

/-- R112: HT.TEMP writes `fl((4393 raw − 76759040)/1638400)`, raw the big-endian 16 bits; a count other than 3
raises SHORT. -/
def Obligations.HtTempIsTheAffineMap : Prop :=
  ∀ s : State,
    (∀ b0 b1 : Byte, s.sbcnt.toNat = 3 → s.sb[0] = some b0 → s.sb[1] = some b1 →
      exec .htTemp s = .next { s with
        res0 := some (fl s.cfg.num ((4393 * ((256 * b0.toNat + b1.toNat : Nat) : Rat) - 76759040) / 1638400))
        res1 := none, res2 := none, resv := 0b001, tmo := false }) ∧
    (s.sbcnt.toNat ≠ 3 → exec .htTemp s = .next { s with flt := s.flt ||| 0b0001, resv := 0b000 })

/-- R113: HT.HUM writes `fl(raw * 125 / 65536 − 6)`, not clamped, and binary32 holds it exactly; a count other than
3 raises SHORT. -/
def Obligations.HtHumIsTheAffineMapAndExact : Prop :=
  ∀ s : State,
    (∀ b0 b1 : Byte, s.sbcnt.toNat = 3 → s.sb[0] = some b0 → s.sb[1] = some b1 →
      exec .htHum s = .next { s with
        res0 := some (fl s.cfg.num ((125 * ((256 * b0.toNat + b1.toNat : Nat) : Rat) - 393216) / 65536))
        res1 := none, res2 := none, resv := 0b001, tmo := false } ∧
      val (fl .binary32 ((125 * ((256 * b0.toNat + b1.toNat : Nat) : Rat) - 393216) / 65536)) =
        (125 * ((256 * b0.toNat + b1.toNat : Nat) : Rat) - 393216) / 65536) ∧
    (s.sbcnt.toNat ≠ 3 → exec .htHum s = .next { s with flt := s.flt ||| 0b0001, resv := 0b000 })

/-! ## Family GY -/

/-- R131: GY.BEGIN on a match sets the range and Active, also when already Active; on a mismatch keeps both; a count
other than 1 raises SHORT. -/
def Obligations.GyBeginChecksIdentityAndSetsRange : Prop :=
  ∀ (s : State) (r : Nat), r < 4 →
    (s.sbcnt.toNat = 1 → s.sb[0] = some s.cfg.gyIdExpected →
      exec (.gyBegin r) s = .next { s with
        range := some (BitVec.ofNat 2 r), gyst := .active, resb := some true, resbv := true } ∧
      (BitVec.ofNat 2 r).toNat = r) ∧
    (∀ b, s.sbcnt.toNat = 1 → s.sb[0] = some b → b ≠ s.cfg.gyIdExpected →
      exec (.gyBegin r) s = .next { s with resb := some false, resbv := true }) ∧
    (s.sbcnt.toNat ≠ 1 → exec (.gyBegin r) s = .next { s with flt := s.flt ||| 0b0001, resbv := false })

/-- R132, R134: GY.EVENT decodes three signed big-endian axes and scales each by the sensitivity of the configured
range and `DEG2RAD`, in one atomic step; its faults are NOTCFG, SHORT, NOVALUE, in this order. -/
def Obligations.GyEventDecodesAndScalesThreeAxes : Prop :=
  ∀ s : State,
    (∀ (b1 b2 b3 b4 b5 b6 : Byte) (r : BitVec 2) (now : Tick),
      s.gyst = .active → s.sbcnt.toNat = 7 → s.ticks = some now → s.range = some r →
      s.sb[1] = some b1 → s.sb[2] = some b2 → s.sb[3] = some b3 → s.sb[4] = some b4 →
      s.sb[5] = some b5 → s.sb[6] = some b6 →
      exec .gyEvent s = .next { s with
        rawx := some (b1 ++ b2), rawy := some (b3 ++ b4), rawz := some (b5 ++ b6)
        res0 := some (fl s.cfg.num (((b1 ++ b2).toInt : Rat) * s.cfg.sens[r.toNat]'(r.isLt) * s.cfg.deg2rad))
        res1 := some (fl s.cfg.num (((b3 ++ b4).toInt : Rat) * s.cfg.sens[r.toNat]'(r.isLt) * s.cfg.deg2rad))
        res2 := some (fl s.cfg.num (((b5 ++ b6).toInt : Rat) * s.cfg.sens[r.toNat]'(r.isLt) * s.cfg.deg2rad))
        resv := 0b111, tmo := false, evts := some now }) ∧
    (s.gyst = .uninitialized → exec .gyEvent s = .next { s with flt := s.flt ||| 0b0100, resv := 0b000 }) ∧
    (s.gyst = .active → s.sbcnt.toNat ≠ 7 →
      exec .gyEvent s = .next { s with flt := s.flt ||| 0b0001, resv := 0b000 }) ∧
    (s.gyst = .active → s.sbcnt.toNat = 7 → s.ticks = none →
      exec .gyEvent s = .next { s with flt := s.flt ||| 0b1000, resv := 0b000 })

/-- R133, R209: GY.META writes −M, M and 0, M the configured range times `DEG2RAD`; before `begin` it raises NOTCFG;
`getSensorMetadata` returns the three with the name, and uses no bus. -/
def Obligations.GyMetaWritesTheBoundsOfTheRange : Prop :=
  ∀ s : State,
    (∀ (r : BitVec 2) (M : Rat), s.gyst = .active → s.range = some r →
      M = s.cfg.rangeDps[r.toNat]'(r.isLt) * s.cfg.deg2rad →
      exec .gyMeta s = .next { s with
        res0 := some (fl s.cfg.num (-M)), res1 := some (fl s.cfg.num M), res2 := some (fl s.cfg.num 0)
        resv := 0b111, tmo := false } ∧
      (∀ rest, s.acq = [] → s.host = .start .getSensorMetadata :: rest →
        ∃ t, Host.Core.run Sys2Proof.core 3 s = .next t ∧ t.acq = [] ∧ t.bus = s.bus ∧
          t.ret = some (.metadata s.cfg.gyName (fl s.cfg.num (-M)) (fl s.cfg.num M) (fl s.cfg.num 0)))) ∧
    (s.gyst = .uninitialized → exec .gyMeta s = .next { s with flt := s.flt ||| 0b0100, resv := 0b000 })

/-! ## Family BA -/

/-- R152, R153: BA.ALT writes `fl((16 I + f)/16)`, I the unsigned big-endian 16 bits, f the nibble of the third byte
that `ALT_FRAC_HIGH` selects; a count other than 3 raises SHORT. -/
def Obligations.BaAltIsSixteenPlusFourFixedPoint : Prop :=
  ∀ s : State,
    (∀ b0 b1 b2 : Byte, s.sbcnt.toNat = 3 → s.sb[0] = some b0 → s.sb[1] = some b1 → s.sb[2] = some b2 →
      exec .baAlt s = .next { s with
        res0 := some (fl s.cfg.num
          (((16 * (256 * b0.toNat + b1.toNat) +
            (if s.cfg.altFracHigh then b2.toNat / 16 else b2.toNat % 16) : Nat) : Rat) / 16))
        res1 := none, res2 := none, resv := 0b001, tmo := false }) ∧
    (s.sbcnt.toNat ≠ 3 → exec .baAlt s = .next { s with flt := s.flt ||| 0b0001, resv := 0b000 })

/-- R154, R155: BA.PRES writes the top 20 bits of the 24-bit big-endian word over 4; a count other than 3 raises
SHORT. -/
def Obligations.BaPresIsTheTopTwentyBitsOverFour : Prop :=
  ∀ s : State,
    (∀ b0 b1 b2 : Byte, s.sbcnt.toNat = 3 → s.sb[0] = some b0 → s.sb[1] = some b1 → s.sb[2] = some b2 →
      exec .baPres s = .next { s with
        res0 := some (fl s.cfg.num
          ((((65536 * b0.toNat + 256 * b1.toNat + b2.toNat) / 16 : Nat) : Rat) / 4))
        res1 := none, res2 := none, resv := 0b001, tmo := false }) ∧
    (s.sbcnt.toNat ≠ 3 → exec .baPres s = .next { s with flt := s.flt ||| 0b0001, resv := 0b000 })

/-- R156, R157: BA.TEMP writes `sext_12(t)/16`, t the 12 bits of the first byte and the high nibble of the second; a
count other than 2 raises SHORT. -/
def Obligations.BaTempIsTwelveBitTwosComplementOverSixteen : Prop :=
  ∀ s : State,
    (∀ b0 b1 : Byte, s.sbcnt.toNat = 2 → s.sb[0] = some b0 → s.sb[1] = some b1 →
      exec .baTemp s = .next { s with
        res0 := some (fl s.cfg.num
          (((if 16 * b0.toNat + b1.toNat / 16 < 2048 then ((16 * b0.toNat + b1.toNat / 16 : Nat) : Int)
            else ((16 * b0.toNat + b1.toNat / 16 : Nat) : Int) - 4096 : Int) : Rat) / 16))
        res1 := none, res2 := none, resv := 0b001, tmo := false }) ∧
    (s.sbcnt.toNat ≠ 2 → exec .baTemp s = .next { s with flt := s.flt ||| 0b0001, resv := 0b000 })

/-- R158: BA.TMO writes the sentinel, which is exactly −999 in every numerics record, marks it in `TMO`, and raises
nothing; no sample's BA decode equals it. -/
def Obligations.BaTmoWritesExactlyTheSentinel : Prop :=
  (∀ s : State, exec .baTmo s = .next { s with
      res0 := some (fl s.cfg.num (-999)), res1 := none, res2 := none, resv := 0b001, tmo := true }) ∧
  (∀ n : NumKind, val (fl n (-999)) = -999) ∧ b32OfRat (-999) = 0xC479C000 ∧
  (∀ (high : Bool) (b0 b1 b2 : Byte),
    altValue high b0 b1 b2 ≠ -999 ∧ presValue b0 b1 b2 ≠ -999 ∧ baTempValue b0 b1 ≠ -999)

/-- R159: BA.ALTFT multiplies `RES0` by 3.28084 in place, the sentinel too; an infinity stays; NOVALUE when
`RESV[0]` is clear. -/
def Obligations.BaAltftConvertsInPlace : Prop :=
  ∀ s : State,
    (∀ r : F, s.resv.getLsbD 0 = true → s.res0 = some r → isInfinite r = false →
      exec .baAltft s = .next { s with res0 := some (fl s.cfg.num (val r * (328084 / 100000))) }) ∧
    (∀ r : F, s.resv.getLsbD 0 = true → s.res0 = some r → isInfinite r = true → exec .baAltft s = .next s) ∧
    (s.resv.getLsbD 0 = false →
      exec .baAltft s = .next { s with flt := s.flt ||| 0b1000, resv := s.resv &&& 0b110 })

/-- R160: BA.TEMPF multiplies `RES0` by 9/5 and adds 32 in place, the sentinel too; an infinity stays; NOVALUE when
`RESV[0]` is clear. -/
def Obligations.BaTempfConvertsInPlace : Prop :=
  ∀ s : State,
    (∀ r : F, s.resv.getLsbD 0 = true → s.res0 = some r → isInfinite r = false →
      exec .baTempf s = .next { s with res0 := some (fl s.cfg.num (val r * 9 / 5 + 32)) }) ∧
    (∀ r : F, s.resv.getLsbD 0 = true → s.res0 = some r → isInfinite r = true → exec .baTempf s = .next s) ∧
    (s.resv.getLsbD 0 = false →
      exec .baTempf s = .next { s with flt := s.flt ||| 0b1000, resv := s.resv &&& 0b110 })

/-- R14: the exact value of every BA decode is held exactly by every admitted numerics record. -/
def Obligations.BaDecodesAreExactInEveryNumerics : Prop :=
  ∀ (n : NumKind) (high : Bool) (b0 b1 b2 : Byte),
    val (fl n (altValue high b0 b1 b2)) = altValue high b0 b1 b2 ∧
    val (fl n (presValue b0 b1 b2)) = presValue b0 b1 b2 ∧
    val (fl n (baTempValue b0 b1)) = baTempValue b0 b1

/-! ## Family CR -/

/-- R182 to R185, R187, R188: each of the six sets or clears its one bit of `CRV` and preserves the other seven, and
touches no other state; NOVALUE when `CRV` is `novalue`. -/
def Obligations.CrBitCommandsEditOneBit : Prop :=
  ∀ (s : State) (i : Instr) (bit : Fin 8) (v : Bool),
    (i, bit, v) ∈ [(Instr.crModebar, s.cfg.baAltBit, false), (.crModealt, s.cfg.baAltBit, true),
      (.crStandby, s.cfg.baSbybBit, false), (.crActive, s.cfg.baSbybBit, true),
      (.crOstclr, s.cfg.baOstBit, false), (.crOstset, s.cfg.baOstBit, true)] →
    (∀ c : Byte, s.crv = some c →
      ∃ c' : Byte, exec i s = .next { s with crv := some c' } ∧
        ∀ j, j < 8 → c'.getLsbD j = if j = bit.val then v else c.getLsbD j) ∧
    (s.crv = none → exec i s = .next { s with flt := s.flt ||| 0b1000 })

/-- R186: CR.OSR n puts min(n, 7) into bits 5:3 of `CRV` and preserves bits 7:6 and 2:0; NOVALUE when `CRV` is
`novalue`. -/
def Obligations.CrOsrInsertsTheClampedRate : Prop :=
  ∀ (s : State) (n : Nat), n < 256 →
    (∀ c : Byte, s.crv = some c →
      ∃ c' : Byte, exec (.crOsr n) s = .next { s with crv := some c' } ∧
        (c'.extractLsb' 3 3).toNat = min n 7 ∧ c' &&& 0xC7 = c &&& 0xC7) ∧
    (s.crv = none → exec (.crOsr n) s = .next { s with flt := s.flt ||| 0b1000 })

/-- R189: CR.EVFLAGS sets the bits of the event mask and preserves the others; NOVALUE when `CRV` is `novalue`. -/
def Obligations.CrEvflagsSetsTheEventMask : Prop :=
  ∀ s : State,
    (∀ c : Byte, s.crv = some c →
      ∃ c' : Byte, exec .crEvflags s = .next { s with crv := some c' } ∧
        ∀ j, j < 8 → c'.getLsbD j = (c.getLsbD j || s.cfg.baEventMask.getLsbD j)) ∧
    (s.crv = none → exec .crEvflags s = .next { s with flt := s.flt ||| 0b1000 })

/-- R181, R190: issuing a CR command a second time changes nothing. -/
def Obligations.CrCommandsAreIdempotent : Prop :=
  ∀ (i : Instr) (s t : State), i.family = .cr → exec i s = .next t → exec i t = .next t

/-- R92, R180: under the laws of `Cfg` the four fields of `CTRL_REG1` are disjoint, so commands on different fields
can be issued in either order. -/
def Obligations.CrCommandsOnDifferentFieldsCommute : Prop :=
  ∀ (s : State) (i j : Instr) (a b : Nat), s.cfg.lawful = true →
    ctrlField i = some a → ctrlField j = some b → a ≠ b → execThen i j s = execThen j i s

/-! ## Faults and frames -/

/-- R241, R252: every command ends in a next state, from every state: a fault is recorded and DP goes on. -/
def Obligations.EveryCommandEndsInANextState : Prop :=
  ∀ (i : Instr) (s : State), ∃ t, exec i s = .next t

/-- R241: a command that raises a fault sets that bit of `FLT`, clears the valid bit of its own destination, and
performs no other write. -/
def Obligations.RaisedFaultWritesOnlyItsBitAndValidBit : Prop :=
  ∀ (i : Instr) (s : State) (c : FaultCode), raisedBy i s = some c →
    (i ∈ [Instr.htTemp, .htHum, .gyEvent, .gyMeta, .baAlt, .baPres, .baTemp] →
      exec i s = .next { s with flt := s.flt ||| c.mask, resv := 0b000 }) ∧
    (i ∈ [Instr.baAltft, .baTempf] →
      exec i s = .next { s with flt := s.flt ||| c.mask, resv := s.resv &&& 0b110 }) ∧
    (i = .htInitchk ∨ (∃ r, i = .gyBegin r) →
      exec i s = .next { s with flt := s.flt ||| c.mask, resbv := false }) ∧
    (i.family = .cr → exec i s = .next { s with flt := s.flt ||| c.mask }) ∧
    i ≠ .baTmo

/-- R23, R242: a command that reads the sample raises SHORT exactly when `SBCNT` is not its expected count, GY.EVENT
only when Active; no other command raises it. -/
def Obligations.ShortIsRaisedExactlyOnAWrongCount : Prop :=
  ∀ (i : Instr) (s : State),
    (∀ n, expectedCount i = some n → (i = .gyEvent → s.gyst = .active) →
      (raisedBy i s = some .short ↔ s.sbcnt.toNat ≠ n)) ∧
    (expectedCount i = none → raisedBy i s ≠ some .short)

/-- R244, R245, R251: the causes of NOTCFG and NOVALUE, in states where the registers' invariant holds. -/
def Obligations.NotcfgAndNovalueHaveTheseCauses : Prop :=
  ∀ (i : Instr) (s : State), s.RegInv →
    (raisedBy i s = some .notcfg ↔ (i = .gyEvent ∨ i = .gyMeta) ∧ s.gyst = .uninitialized) ∧
    (raisedBy i s = some .novalue ↔
      ((i = .baAltft ∨ i = .baTempf) ∧ s.resv.getLsbD 0 = false) ∨
      (i.family = .cr ∧ s.crv = none) ∨
      (i = .gyEvent ∧ s.gyst = .active ∧ s.sbcnt.toNat = 7 ∧ s.ticks = none)) ∧
    raisedBy i s ≠ some .illegal

/-- R20's column "written by", R22, R24 to R29, R32: what each command leaves unchanged, faulting or not. -/
def Obligations.CommandsWriteOnlyTheirRegisters : Prop :=
  ∀ (i : Instr) (s t : State), exec i s = .next t →
    (t.sb = s.sb ∧ t.sbcnt = s.sbcnt ∧ t.ticks = s.ticks ∧ t.pollcnt = s.pollcnt ∧ t.cfg = s.cfg ∧
      t.acq = s.acq ∧ t.host = s.host ∧ t.ret = s.ret ∧ t.hostOut = s.hostOut ∧ t.env = s.env ∧ t.bus = s.bus) ∧
    ((∀ r, i ≠ .gyBegin r) → t.range = s.range ∧ t.gyst = s.gyst) ∧
    (i ≠ .gyEvent → t.rawx = s.rawx ∧ t.rawy = s.rawy ∧ t.rawz = s.rawz ∧ t.evts = s.evts) ∧
    (i.family ≠ .cr → t.crv = s.crv) ∧
    (i.family = .cr ∨ i = .htInitchk ∨ (∃ r, i = .gyBegin r) →
      t.res0 = s.res0 ∧ t.res1 = s.res1 ∧ t.res2 = s.res2 ∧ t.resv = s.resv ∧ t.tmo = s.tmo) ∧
    (i = .baAltft ∨ i = .baTempf →
      t.res1 = s.res1 ∧ t.res2 = s.res2 ∧ t.resv &&& 0b110 = s.resv &&& 0b110 ∧ t.tmo = s.tmo) ∧
    (i ≠ .htInitchk → (∀ r, i ≠ .gyBegin r) → t.resb = s.resb ∧ t.resbv = s.resbv)

/-- R22: only the bytes of a `BusRead` write the sample buffer and its count; the reset event apart. -/
def Obligations.OnlyBurstsWriteTheSampleBuffer : Prop :=
  ∀ s t : State, ¬ s.resetNext → (∀ k rest, s.acq ≠ .fill k :: rest) → step s = .next t →
    t.sb = s.sb ∧ t.sbcnt = s.sbcnt

/-- R26: the RawAxes are never read back: two states that differ only in them take steps that differ only in them,
unless the host reads them. -/
def Obligations.RawAxesAreNeverReadBack : Prop :=
  ∀ (s t : State) (x y z : Option (BitVec 16)), ¬ s.rawReadNext → step s = .next t →
    ∃ t', step { s with rawx := x, rawy := y, rawz := z } = .next t' ∧ t'.eraseRaw = t.eraseRaw

/-- R35: no command reads `TMO` or `FLT`, and no command's result depends on `RESB`. Changing the three before a
command changes nothing after it but them; the value a command writes to `TMO` or `RESB` is the same, one it does not
write stays, and `FLT` gains the same bit, if any. -/
def Obligations.NoCommandDependsOnTmoFltOrResb : Prop :=
  ∀ (i : Instr) (s t : State) (m : Bool) (f : BitVec 4) (b : Option Bool), exec i s = .next t →
    ∃ t', exec i { s with tmo := m, flt := f, resb := b } = .next t' ∧ t'.eraseStatus = t.eraseStatus ∧
      raisedBy i { s with tmo := m, flt := f, resb := b } = raisedBy i s ∧
      (writesTmo i → raisedBy i s = none → t'.tmo = t.tmo) ∧
      (¬ (writesTmo i ∧ raisedBy i s = none) → t'.tmo = m ∧ t.tmo = s.tmo) ∧
      (writesResb i → raisedBy i s = none → t'.resb = t.resb) ∧
      (¬ (writesResb i ∧ raisedBy i s = none) → t'.resb = b ∧ t.resb = s.resb) ∧
      (raisedBy i s = none → t'.flt = f ∧ t.flt = s.flt) ∧
      (∀ c, raisedBy i s = some c → t'.flt = f ||| c.mask ∧ t.flt = s.flt ||| c.mask)

/-- R53: the bytes and bits of a sample that no field covers are ignored by value. -/
def Obligations.UncoveredSampleBitsAreIgnored : Prop :=
  ∀ (s t : State) (v b : Byte),
    (∀ i ∈ [Instr.htTemp, .htHum], exec i s = .next t →
      exec i { s with sb := s.sb.set 2 (some v) } = .next { t with sb := s.sb.set 2 (some v) }) ∧
    (exec .gyEvent s = .next t →
      exec .gyEvent { s with sb := s.sb.set 0 (some v) } = .next { t with sb := s.sb.set 0 (some v) }) ∧
    (s.sb[2] = some b → b.toNat / 16 = v.toNat / 16 → exec .baPres s = .next t →
      exec .baPres { s with sb := s.sb.set 2 (some v) } = .next { t with sb := s.sb.set 2 (some v) }) ∧
    (s.sb[1] = some b → b.toNat / 16 = v.toNat / 16 → exec .baTemp s = .next t →
      exec .baTemp { s with sb := s.sb.set 1 (some v) } = .next { t with sb := s.sb.set 1 (some v) }) ∧
    (s.sb[2] = some b →
      (if s.cfg.altFracHigh then b.toNat / 16 = v.toNat / 16 else b.toNat % 16 = v.toNat % 16) →
      exec .baAlt s = .next t →
      exec .baAlt { s with sb := s.sb.set 2 (some v) } = .next { t with sb := s.sb.set 2 (some v) })

/-! ## Binary32 -/

/-- R14: binary32 is exact on every `k/16` with `|k| < 2^20`, every `k/4` with `0 ≤ k < 2^20`, and −999. -/
def Obligations.Binary32IsExactOnTheFixedPointValues : Prop :=
  (∀ k : Int, k.natAbs < 2 ^ 20 → val (fl .binary32 ((k : Rat) / 16)) = (k : Rat) / 16) ∧
  (∀ k : Nat, k < 2 ^ 20 → val (fl .binary32 ((k : Rat) / 4)) = (k : Rat) / 4) ∧
  val (fl .binary32 (-999)) = -999

/-- R14: `fl` of binary32 is monotone, the infinities included. -/
def Obligations.Binary32IsMonotone : Prop :=
  ∀ q r : Rat, q ≤ r →
    (b32Finite (b32OfRat q) = true → b32Finite (b32OfRat r) = true →
      b32Val (b32OfRat q) ≤ b32Val (b32OfRat r)) ∧
    (b32OfRat q = 0x7F800000 → b32OfRat r = 0x7F800000) ∧
    (b32OfRat r = 0xFF800000 → b32OfRat q = 0xFF800000)

/-- R100 a, b: a finite result of `fl` is a nearest binary32 number, subnormals included, and of two equally near
ones the one with an even significand. -/
def Obligations.Binary32RoundsToNearestTiesToEven : Prop :=
  ∀ (q : Rat) (b : BitVec 32), b32Finite (b32OfRat q) = true → b32Finite b = true →
    |b32Val (b32OfRat q) - q| ≤ |b32Val b - q| ∧
    (|b32Val (b32OfRat q) - q| = |b32Val b - q| → b32Val b ≠ b32Val (b32OfRat q) →
      (b32OfRat q).getLsbD 0 = false)

/-- R100 c, d, e: zero is +0; the sign is that of the exact value, kept when it rounds to zero; from 2^128 − 2^103 on
the result is the infinity of that sign, below it is finite; no result is a NaN; `fl(−q)` is `fl(q)` with the sign
changed. -/
def Obligations.Binary32SignOverflowAndNoNaN : Prop :=
  b32OfRat 0 = 0 ∧
  ∀ q : Rat,
    (q ≠ 0 → (b32OfRat q).msb = decide (q < 0)) ∧
    (b32Infinite (b32OfRat q) = true ↔ 2 ^ 128 - 2 ^ 103 ≤ |q|) ∧
    b32NaN (b32OfRat q) = false ∧
    (q ≠ 0 → b32OfRat (-q) = b32OfRat q ^^^ 0x80000000)

/-! ## Bus access and sequences -/

/-- R62: `BusRead` issues its address phase and `requestRead`, waits for data if asked to, and puts the first
min(k, 7) bytes into `SB` in arrival order, with their count in `SBCNT` and `novalue` in the other cells. The
answers are fixed in advance, and the number of steps is the model's choice (log entries 2, 3). -/
def Obligations.BusReadFillsTheSampleBuffer : Prop :=
  ∀ (s : State) (dev : Dev) (reg : Option Byte) (n : Nat) (wait : Bool) (rest : List Act) (k m : Nat)
    (ks : List Nat) (bytes more : List Byte) (ws : List (Option Nat)),
    s.acq = .busRead dev reg n wait :: rest → s.env.counts = k :: ks → s.env.bytes = bytes ++ more →
    bytes.length = min k 7 → s.env.waits = some m :: ws →
    ∃ t, Host.Core.run Sys2Proof.core (if wait then m + 3 else 2) s = .next t ∧
      t = { s with
        acq := rest, sb := t.sb, sbcnt := BitVec.ofNat 3 (min k 7)
        env := { s.env with counts := ks, bytes := more, waits := if wait then ws else s.env.waits }
        bus := s.bus ++ (match reg with | some r => addressPhase s.cfg dev r | none => []) ++
          [.requestRead (devAddr s.cfg dev) n] ++ List.replicate (min k 7) .read } ∧
      t.sbcnt.toNat = min k 7 ∧ ∀ i : Fin 7, t.sb[i] = bytes[i.val]?

/-- R65, R247: the wait for `dataAvailable()` has no bound: while it never answers true the state stays as it is for
ever, no fault and no sentinel; and any wait is left only by an answer true. The hang as a state that steps
to itself is the model's choice (log entry 16). -/
def Obligations.WaitForDataHasNoBound : Prop :=
  ∀ (s : State) (rest : List Act), s.acq = .waitAvail :: rest →
    (∀ ws, s.env.waits = none :: ws → ∀ k, Host.Core.run Sys2Proof.core k s = .next s) ∧
    (∃ t, step s = .next t ∧ t = { s with acq := t.acq, env := t.env } ∧
      ((drawAvail s.env).1 = false → t.acq = s.acq) ∧ ((drawAvail s.env).1 = true → t.acq = rest))

/-- R66, R201: a one-byte read that does not deliver exactly one byte raises SHORT, and the sequence stops there, with
the valid bit of its destination clear: `RESV` for a sequence that returns a number; a setter or a toggle has none.
`CRV`, `POLLCNT`, the sample and the results stay. That `RESV` is cleared whole, as a decode command's fault clears it,
is the model's reading (DEDUCED, log entry 11). -/
def Obligations.ShortOneByteReadStopsTheSequence : Prop :=
  ∀ (s : State) (a : Act) (rest : List Act) (k : Nat) (ks : List Nat) (reg mask : Byte) (eff : Bool),
    a ∈ [Act.loadCrv .ba reg, .preCheck mask eff, .pollRead mask] → s.acq = a :: rest →
    s.env.counts = k :: ks → k ≠ 1 →
    ∃ t, step s = .next t ∧ t = { s with
      flt := s.flt ||| 0b0001, acq := [], ret := some .nothing, env := { s.env with counts := ks }, bus := t.bus
      resv := t.resv, resbv := t.resbv } ∧
      (∀ mid, rest = mid ++ [.ret .number] → (∀ r, Act.ret r ∉ mid) → t.resv = 0b000 ∧ t.resbv = s.resbv) ∧
      (∀ mid, rest = mid ++ [.ret .unit] → (∀ r, Act.ret r ∉ mid) → t.resv = s.resv ∧ t.resbv = s.resbv)

/-- R212: a setter reads its register, edits the value with its command, and writes it back, also when the command
left it unchanged. The number of steps is the model's choice (log entry 3). -/
def Obligations.SettersReadModifyWrite : Prop :=
  ∀ (s : State) (call : DriverCall) (reg : Byte) (op : Instr) (n : BitVec 8) (rest : List HostReq) (c : Byte)
    (ks : List Nat) (bs : List Byte),
    (call, reg, op) ∈ setters s.cfg n → s.acq = [] → s.host = .start call :: rest →
    s.env.counts = 1 :: ks → s.env.bytes = c :: bs →
    ∃ (t : State) (c' : Byte), Host.Core.run Sys2Proof.core 5 s = .next t ∧
      exec op { s with crv := some c } = .next { s with crv := some c' } ∧
      t = { s with
        host := rest, acq := [], crv := some c', ret := some .unit
        env := { s.env with counts := ks, bytes := bs }
        bus := s.bus ++ read8Events s.cfg .ba reg ++ writeEvents s.cfg .ba reg c' }

/-- R211: `toggleOneShot` is two complete read-modify-writes of `CTRL_REG1`, the trigger bit cleared and then set. The
number of steps is the model's choice (log entry 3). -/
def Obligations.ToggleOneShotClearsThenSets : Prop :=
  ∀ (s : State) (rest : List HostReq) (c1 c2 : Byte) (ks : List Nat) (bs : List Byte),
    s.acq = [] → s.host = .start .toggleOneShot :: rest →
    s.env.counts = 1 :: 1 :: ks → s.env.bytes = c1 :: c2 :: bs →
    ∃ (t : State) (w1 w2 : Byte), Host.Core.run Sys2Proof.core 8 s = .next t ∧
      (∀ j, j < 8 → w1.getLsbD j = (c1.getLsbD j && !decide (j = s.cfg.baOstBit.val))) ∧
      (∀ j, j < 8 → w2.getLsbD j = (c2.getLsbD j || decide (j = s.cfg.baOstBit.val))) ∧
      t.acq = [] ∧ t.ret = some .unit ∧ t.crv = some w2 ∧ t.flt = s.flt ∧
      t.bus = s.bus ++ read8Events s.cfg .ba s.cfg.baCtrlReg1 ++ writeEvents s.cfg .ba s.cfg.baCtrlReg1 w1 ++
        read8Events s.cfg .ba s.cfg.baCtrlReg1 ++ writeEvents s.cfg .ba s.cfg.baCtrlReg1 w2

/-- R215: the pre-check always reads the status; it triggers a conversion exactly when it is effective and the ready
bit is clear, so with the preserved defect never. -/
def Obligations.PreCheckTogglesOnlyWhenEffective : Prop :=
  ∀ (s : State) (mask b : Byte) (eff : Bool) (rest : List Act) (ks : List Nat) (bs : List Byte),
    s.acq = .preCheck mask eff :: rest → s.env.counts = 1 :: ks → s.env.bytes = b :: bs →
    step s = .next { s with
      acq := if eff = true ∧ b &&& mask = 0 then textToggle s.cfg ++ rest else rest
      env := { s.env with counts := ks, bytes := bs }
      bus := s.bus ++ read8Events s.cfg .ba s.cfg.baStatus }

/-- R213: whatever the environment answers, a poll ends within 600 status reads: ready, or timed out after exactly
600 with BA.TMO next, or stopped by SHORT. The number of
steps is the model's choice (log entry 3); the ready case does not say that a ready bit was seen. -/
def Obligations.PollEndsWithinSixHundredReads : Prop :=
  ∀ (s : State) (mask : Byte) (rest : List Act), s.acq = .pollInit :: .pollRead mask :: rest →
    ∃ (k : Nat) (t : State), k ≤ 1200 ∧ Host.Core.run Sys2Proof.core k s = .next t ∧
      oneByteRequests s.cfg t.bus ≤ oneByteRequests s.cfg s.bus + 600 ∧
      ((t.acq = rest ∧ t.pollcnt.toNat < 600) ∨
        (t.acq = .dp 0x2300 :: afterReturn rest ∧ t.pollcnt.toNat = 600 ∧
          oneByteRequests s.cfg t.bus = oneByteRequests s.cfg s.bus + 600 ∧
          t.bus.countP (fun e => e == .delay 1) = s.bus.countP (fun e => e == .delay 1) + 599) ∨
        (t.acq = [] ∧ t.ret = some .nothing ∧ t.flt = s.flt ||| 0b0001))

/-- R213, R214, R216, R217, R158: if the ready bit is clear in every one of 600 status reads, `readAltitude`,
`readPressure` (with the preserved pre-check) and `readTemp` (with the effective one, not ready) return the sentinel
with `TMO` set and `POLLCNT` at 600. The number of steps
is the model's choice (log entry 3); `readAltitudeFt`, `readTempF` and the other pre-check settings are left out. -/
def Obligations.TimedOutReadsReturnTheSentinel : Prop :=
  ∀ (s : State) (rest : List HostReq) (call : DriverCall) (mask : Byte) (first sts more : List Byte) (ks : List Nat),
    s.acq = [] → s.host = .start call :: rest →
    ((call = .readAltitude ∧ mask = s.cfg.baRdyAlt ∧ first.length = 2) ∨
      (call = .readPressure ∧ mask = 0x04 ∧ s.cfg.presPrecheckEffective = false ∧ first.length = 1) ∨
      (call = .readTemp ∧ mask = s.cfg.baRdyTemp ∧ s.cfg.tempPrecheckEffective = true ∧ first.length = 3 ∧
        ∃ st cs, first = st :: cs ∧ st &&& mask = 0)) →
    sts.length = 600 → (∀ st ∈ sts, st &&& mask = 0) →
    s.env.counts = List.replicate (first.length + 600) 1 ++ ks → s.env.bytes = first ++ sts ++ more →
    ∃ (k : Nat) (t : State), k ≤ 1211 ∧ Host.Core.run Sys2Proof.core k s = .next t ∧
      t.acq = [] ∧ t.ret = some (.number (fl s.cfg.num (-999))) ∧ t.tmo = true ∧ t.pollcnt.toNat = 600 ∧
      t.flt = s.flt ∧ t.sb = s.sb

/-- R214 to R219 with R211, R213, R215: with a conversion ready at the first status read of the poll and a full burst,
`readAltitude`, `readPressure`, `readTemp`, `readAltitudeFt` and `readTempF` return the decoded value, the last two
converted; `readAltitude` triggers before its poll, the other two pre-check before it, under either setting of the
switch, and trigger after the decode. The number of steps is the model's choice (log entry 3). -/
def Obligations.BarometricReadsReturnTheDecodedValue : Prop :=
  ∀ (s : State) (rest : List HostReq) (call : DriverCall) (st c1 c2 : Byte) (ks : List Nat) (bs : List Byte),
    s.acq = [] → s.host = .start call :: rest →
    (∀ (b0 b1 b2 : Byte) (value : Rat) (extra : Nat),
      (call, value, extra) ∈ [(DriverCall.readAltitude, altValue s.cfg.altFracHigh b0 b1 b2, 0),
        (.readAltitudeFt, altValue s.cfg.altFracHigh b0 b1 b2 * (328084 / 100000), 1)] →
      st &&& s.cfg.baRdyAlt ≠ 0 →
      s.env.counts = 1 :: 1 :: 1 :: 3 :: ks → s.env.bytes = c1 :: c2 :: st :: b0 :: b1 :: b2 :: bs →
      ∃ t, Host.Core.run Sys2Proof.core (14 + extra) s = .next t ∧
        t.acq = [] ∧ t.ret = some (.number (fl s.cfg.num value)) ∧ t.res0 = some (fl s.cfg.num value) ∧
        t.resv = 0b001 ∧ t.tmo = false ∧ t.flt = s.flt ∧ t.pollcnt = 0 ∧
        t.crv = some (setbit c2 s.cfg.baOstBit.val) ∧
        t.bus = s.bus ++ toggleEvents s.cfg c1 c2 ++ read8Events s.cfg .ba s.cfg.baStatus ++
          burstEvents s.cfg s.cfg.baOutPMsb 3) ∧
    (∀ (first data : List Byte) (b0 b1 b2 mask reg : Byte) (eff : Bool) (value : Rat) (extra : Nat)
        (evs : List BusEvent),
      (call, mask, eff, reg, data, value, extra) ∈
        [(DriverCall.readPressure, 0x04, s.cfg.presPrecheckEffective, s.cfg.baOutPMsb, [b0, b1, b2],
            presValue b0 b1 b2, 0),
          (.readTemp, s.cfg.baRdyTemp, s.cfg.tempPrecheckEffective, s.cfg.baOutTMsb, [b0, b1], baTempValue b0 b1, 0),
          (.readTempF, s.cfg.baRdyTemp, s.cfg.tempPrecheckEffective, s.cfg.baOutTMsb, [b0, b1],
            baTempValue b0 b1 * 9 / 5 + 32, 1)] →
      preCheckEvents s.cfg mask eff first = some evs → st &&& mask ≠ 0 →
      s.env.counts = List.replicate first.length 1 ++ 1 :: data.length :: 1 :: 1 :: ks →
      s.env.bytes = first ++ st :: data ++ c1 :: c2 :: bs →
      ∃ t, Host.Core.run Sys2Proof.core (12 + 3 * first.length + extra) s = .next t ∧
        t.acq = [] ∧ t.ret = some (.number (fl s.cfg.num value)) ∧ t.res0 = some (fl s.cfg.num value) ∧
        t.resv = 0b001 ∧ t.tmo = false ∧ t.flt = s.flt ∧ t.pollcnt = 0 ∧
        t.crv = some (setbit c2 s.cfg.baOstBit.val) ∧
        t.bus = s.bus ++ evs ++ read8Events s.cfg .ba s.cfg.baStatus ++ burstEvents s.cfg reg data.length ++
          toggleEvents s.cfg c1 c2)

/-- R204 to R206: `initialize`, `readTemperature` and `readHumidity` send their command, wait their fixed delay and
then, without bound, for data, read their bytes, and return the decoded value. The number of steps is the model's
choice (log entry 3). -/
def Obligations.HtSequencesReturnTheDecodedValue : Prop :=
  ∀ (s : State) (rest : List HostReq) (m : Nat) (ws : List (Option Nat)) (b0 b1 b2 : Byte) (ks : List Nat)
    (bs : List Byte), s.acq = [] → s.env.waits = some m :: ws →
    (s.host = .start .initHt :: rest → s.env.counts = 1 :: ks → s.env.bytes = b0 :: bs →
      ∃ t, Host.Core.run Sys2Proof.core (m + 8) s = .next t ∧ t.acq = [] ∧
        t.ret = some (.bool (decide (b0 = s.cfg.htResetSentinel))) ∧
        t.bus = s.bus ++ [.beginTransaction s.cfg.htAddr, .write s.cfg.htCmdReset, .endTransaction true,
          .delay s.cfg.htSettleMs, .beginTransaction s.cfg.htAddr, .write s.cfg.htRegStatus,
          .endTransaction s.cfg.htStop, .requestRead s.cfg.htAddr 1, .read]) ∧
    (∀ call cmdByte value,
      (call, cmdByte, value) ∈ [(DriverCall.readTemperature, s.cfg.htCmdTemp, htTempValue (be16u b0 b1)),
        (.readHumidity, s.cfg.htCmdHum, htHumValue (be16u b0 b1))] →
      s.host = .start call :: rest → s.env.counts = 3 :: ks → s.env.bytes = b0 :: b1 :: b2 :: bs →
      ∃ t, Host.Core.run Sys2Proof.core (m + 8) s = .next t ∧ t.acq = [] ∧
        t.ret = some (.number (fl s.cfg.num value)) ∧
        t.bus = s.bus ++ [.beginTransaction s.cfg.htAddr, .write cmdByte, .endTransaction true,
          .delay s.cfg.htConvMs, .requestRead s.cfg.htAddr 3, .read, .read, .read])

/-- R207: `begin(r)` on an identity match sets the range, writes the control register three times and waits; on a
mismatch it returns false with no register write and no delay, `RANGE` and `GYST` as they were. -/
def Obligations.BeginConfiguresOrReturnsFalse : Prop :=
  ∀ (s : State) (rest : List HostReq) (r : BitVec 2) (b : Byte) (ks : List Nat) (bs : List Byte),
    s.acq = [] → s.host = .start (.beginGy r) :: rest → s.env.counts = 1 :: ks → s.env.bytes = b :: bs →
    (b = s.cfg.gyIdExpected →
      ∃ t, Host.Core.run Sys2Proof.core 11 s = .next t ∧ t.acq = [] ∧ t.ret = some (.bool true) ∧
        t.range = some r ∧ t.gyst = .active ∧ t.flt = s.flt ∧
        t.bus = s.bus ++ read8Events s.cfg .gy s.cfg.gyWhoAmI ++ writeEvents s.cfg .gy s.cfg.gyCtrlReg1 0x00 ++
          writeEvents s.cfg .gy s.cfg.gyCtrlReg1 s.cfg.gyCr1Reset ++
          writeEvents s.cfg .gy s.cfg.gyCtrlReg1 s.cfg.gyCr1Run ++ [.delay s.cfg.gySettleMs]) ∧
    (b ≠ s.cfg.gyIdExpected →
      ∃ t, Host.Core.run Sys2Proof.core 7 s = .next t ∧ t.acq = [] ∧ t.ret = some (.bool false) ∧
        t.range = s.range ∧ t.gyst = s.gyst ∧ t.flt = s.flt ∧
        t.bus = s.bus ++ read8Events s.cfg .gy s.cfg.gyWhoAmI)

/-- R208: `getEvent` latches the low 32 bits of the tick count, reads the 7-byte burst with the auto-increment bit
set, and returns the scaled axes with that timestamp, the type tag and the sensor identifier; a burst of another
length stops it with SHORT and nothing valid returned. -/
def Obligations.GetEventReturnsTheEventOrStops : Prop :=
  ∀ (s : State) (rest : List HostReq) (v : Nat) (vs : List Nat) (k : Nat) (ks : List Nat) (bytes more : List Byte),
    s.acq = [] → s.host = .start .getEvent :: rest →
    s.env.ticks = v :: vs → s.env.counts = k :: ks → s.env.bytes = bytes ++ more → bytes.length = min k 7 →
    (∀ r b0 b1 b2 b3 b4 b5 b6, s.gyst = .active → s.range = some r →
      bytes = [b0, b1, b2, b3, b4, b5, b6] → k = 7 →
      ∃ t, Host.Core.run Sys2Proof.core 6 s = .next t ∧ t.acq = [] ∧
        t.ret = some (.event (fl s.cfg.num (gyRateValue s.cfg r (be16s b1 b2)))
          (fl s.cfg.num (gyRateValue s.cfg r (be16s b3 b4))) (fl s.cfg.num (gyRateValue s.cfg r (be16s b5 b6)))
          (BitVec.ofNat 32 v) s.cfg.gyTypeTag s.cfg.gySensorId) ∧
        t.bus = s.bus ++ [.monotonicTicks] ++ addressPhase s.cfg .gy (s.cfg.gyStatus ||| s.cfg.gyAutoinc) ++
          [.requestRead s.cfg.gyAddr 7] ++ List.replicate 7 .read) ∧
    ((s.gyst = .active ∧ k < 7) ∨ s.gyst = .uninitialized →
      ∃ t, Host.Core.run Sys2Proof.core 5 s = .next t ∧ t.acq = [] ∧ t.ret = some .nothing ∧
        t.flt = s.flt ||| (if s.gyst = .active then 0b0001 else 0b0100) ∧ t.resv = 0b000 ∧
        t.rawx = s.rawx ∧ t.rawy = s.rawy ∧ t.rawz = s.rawz ∧ t.evts = s.evts)

/-! ## The host's reads -/

/-- R21, R277: a host read of a register, by every name of R20, gives the register's value and changes nothing else;
of a register that holds `novalue` it stops the machine and gives no value. That a result whose valid bit is clear is
such a register is the model's reading (DEDUCED, log entry 12). -/
def Obligations.HostReadGivesAValueOrStops : Prop :=
  (∀ (s : State) (r : Reg), ∃ v, (r, v) ∈ registerTable s) ∧
  ∀ (s : State) (r : Reg) (rest : List HostReq), s.acq = [] → s.host = .read r :: rest →
    (∀ v, (r, some v) ∈ registerTable s → step s = .next { s with host := rest, hostOut := some v }) ∧
    ((r, none) ∈ registerTable s → step s = .fault (.hostReadNovalue r))

/-! ## Invariants -/

/-- The relations between the registers hold after reset. -/
def Obligations.ResetMeetsTheRegisterInvariant : Prop := State.reset.RegInv ∧ State.reset.PollInv

/-- From every state in which they hold, every step keeps the relations between the registers: the sample buffer
holds exactly `SBCNT` bytes, Active and a set range go together, a set valid bit stands for a value, no result is a
NaN (R20, R22 to R28, R100 e). -/
def Obligations.EveryStepKeepsTheRegisterInvariant : Prop :=
  ∀ s t : State, s.RegInv → step s = .next t → t.RegInv

/-- R34: from every state in which ACQ enters its poll loops through `POLLCNT <- 0`, every step keeps that and
`POLLCNT` never exceeds 600. -/
def Obligations.EveryStepKeepsThePollBound : Prop :=
  ∀ s t : State, s.PollInv → step s = .next t → t.PollInv
end

