-- ==== Sys2Proof/Laws/State.lean ====
section
/-! SUPPORT. One lemma per field of State and per named update: what the field is after it. -/

namespace Sys2Proof.Machine

variable (s : State)

/-! ## writeScalar -/

@[simp] theorem writeScalar_sb (v : Rat) : (writeScalar v s).sb = s.sb := rfl
@[simp] theorem writeScalar_sbcnt (v : Rat) : (writeScalar v s).sbcnt = s.sbcnt := rfl
@[simp] theorem writeScalar_range (v : Rat) : (writeScalar v s).range = s.range := rfl
@[simp] theorem writeScalar_gyst (v : Rat) : (writeScalar v s).gyst = s.gyst := rfl
@[simp] theorem writeScalar_rawx (v : Rat) : (writeScalar v s).rawx = s.rawx := rfl
@[simp] theorem writeScalar_rawy (v : Rat) : (writeScalar v s).rawy = s.rawy := rfl
@[simp] theorem writeScalar_rawz (v : Rat) : (writeScalar v s).rawz = s.rawz := rfl
@[simp] theorem writeScalar_res0 (v : Rat) : (writeScalar v s).res0 = some (fl s.cfg.num v) := rfl
@[simp] theorem writeScalar_res1 (v : Rat) : (writeScalar v s).res1 = none := rfl
@[simp] theorem writeScalar_res2 (v : Rat) : (writeScalar v s).res2 = none := rfl
@[simp] theorem writeScalar_resv (v : Rat) : (writeScalar v s).resv = resvScalar := rfl
@[simp] theorem writeScalar_resb (v : Rat) : (writeScalar v s).resb = s.resb := rfl
@[simp] theorem writeScalar_resbv (v : Rat) : (writeScalar v s).resbv = s.resbv := rfl
@[simp] theorem writeScalar_tmo (v : Rat) : (writeScalar v s).tmo = false := rfl
@[simp] theorem writeScalar_flt (v : Rat) : (writeScalar v s).flt = s.flt := rfl
@[simp] theorem writeScalar_evts (v : Rat) : (writeScalar v s).evts = s.evts := rfl
@[simp] theorem writeScalar_crv (v : Rat) : (writeScalar v s).crv = s.crv := rfl
@[simp] theorem writeScalar_ticks (v : Rat) : (writeScalar v s).ticks = s.ticks := rfl
@[simp] theorem writeScalar_pollcnt (v : Rat) : (writeScalar v s).pollcnt = s.pollcnt := rfl
@[simp] theorem writeScalar_cfg (v : Rat) : (writeScalar v s).cfg = s.cfg := rfl
@[simp] theorem writeScalar_acq (v : Rat) : (writeScalar v s).acq = s.acq := rfl
@[simp] theorem writeScalar_host (v : Rat) : (writeScalar v s).host = s.host := rfl
@[simp] theorem writeScalar_ret (v : Rat) : (writeScalar v s).ret = s.ret := rfl
@[simp] theorem writeScalar_hostOut (v : Rat) : (writeScalar v s).hostOut = s.hostOut := rfl
@[simp] theorem writeScalar_env (v : Rat) : (writeScalar v s).env = s.env := rfl
@[simp] theorem writeScalar_bus (v : Rat) : (writeScalar v s).bus = s.bus := rfl

/-! ## writeTriple -/

@[simp] theorem writeTriple_sb (a b c : Rat) : (writeTriple a b c s).sb = s.sb := rfl
@[simp] theorem writeTriple_sbcnt (a b c : Rat) : (writeTriple a b c s).sbcnt = s.sbcnt := rfl
@[simp] theorem writeTriple_range (a b c : Rat) : (writeTriple a b c s).range = s.range := rfl
@[simp] theorem writeTriple_gyst (a b c : Rat) : (writeTriple a b c s).gyst = s.gyst := rfl
@[simp] theorem writeTriple_rawx (a b c : Rat) : (writeTriple a b c s).rawx = s.rawx := rfl
@[simp] theorem writeTriple_rawy (a b c : Rat) : (writeTriple a b c s).rawy = s.rawy := rfl
@[simp] theorem writeTriple_rawz (a b c : Rat) : (writeTriple a b c s).rawz = s.rawz := rfl
@[simp] theorem writeTriple_res0 (a b c : Rat) : (writeTriple a b c s).res0 = some (fl s.cfg.num a) := rfl
@[simp] theorem writeTriple_res1 (a b c : Rat) : (writeTriple a b c s).res1 = some (fl s.cfg.num b) := rfl
@[simp] theorem writeTriple_res2 (a b c : Rat) : (writeTriple a b c s).res2 = some (fl s.cfg.num c) := rfl
@[simp] theorem writeTriple_resv (a b c : Rat) : (writeTriple a b c s).resv = resvTriple := rfl
@[simp] theorem writeTriple_resb (a b c : Rat) : (writeTriple a b c s).resb = s.resb := rfl
@[simp] theorem writeTriple_resbv (a b c : Rat) : (writeTriple a b c s).resbv = s.resbv := rfl
@[simp] theorem writeTriple_tmo (a b c : Rat) : (writeTriple a b c s).tmo = false := rfl
@[simp] theorem writeTriple_flt (a b c : Rat) : (writeTriple a b c s).flt = s.flt := rfl
@[simp] theorem writeTriple_evts (a b c : Rat) : (writeTriple a b c s).evts = s.evts := rfl
@[simp] theorem writeTriple_crv (a b c : Rat) : (writeTriple a b c s).crv = s.crv := rfl
@[simp] theorem writeTriple_ticks (a b c : Rat) : (writeTriple a b c s).ticks = s.ticks := rfl
@[simp] theorem writeTriple_pollcnt (a b c : Rat) : (writeTriple a b c s).pollcnt = s.pollcnt := rfl
@[simp] theorem writeTriple_cfg (a b c : Rat) : (writeTriple a b c s).cfg = s.cfg := rfl
@[simp] theorem writeTriple_acq (a b c : Rat) : (writeTriple a b c s).acq = s.acq := rfl
@[simp] theorem writeTriple_host (a b c : Rat) : (writeTriple a b c s).host = s.host := rfl
@[simp] theorem writeTriple_ret (a b c : Rat) : (writeTriple a b c s).ret = s.ret := rfl
@[simp] theorem writeTriple_hostOut (a b c : Rat) : (writeTriple a b c s).hostOut = s.hostOut := rfl
@[simp] theorem writeTriple_env (a b c : Rat) : (writeTriple a b c s).env = s.env := rfl
@[simp] theorem writeTriple_bus (a b c : Rat) : (writeTriple a b c s).bus = s.bus := rfl

/-! ## writeCheck -/

@[simp] theorem writeCheck_sb (b : Bool) : (writeCheck b s).sb = s.sb := rfl
@[simp] theorem writeCheck_sbcnt (b : Bool) : (writeCheck b s).sbcnt = s.sbcnt := rfl
@[simp] theorem writeCheck_range (b : Bool) : (writeCheck b s).range = s.range := rfl
@[simp] theorem writeCheck_gyst (b : Bool) : (writeCheck b s).gyst = s.gyst := rfl
@[simp] theorem writeCheck_rawx (b : Bool) : (writeCheck b s).rawx = s.rawx := rfl
@[simp] theorem writeCheck_rawy (b : Bool) : (writeCheck b s).rawy = s.rawy := rfl
@[simp] theorem writeCheck_rawz (b : Bool) : (writeCheck b s).rawz = s.rawz := rfl
@[simp] theorem writeCheck_res0 (b : Bool) : (writeCheck b s).res0 = s.res0 := rfl
@[simp] theorem writeCheck_res1 (b : Bool) : (writeCheck b s).res1 = s.res1 := rfl
@[simp] theorem writeCheck_res2 (b : Bool) : (writeCheck b s).res2 = s.res2 := rfl
@[simp] theorem writeCheck_resv (b : Bool) : (writeCheck b s).resv = s.resv := rfl
@[simp] theorem writeCheck_resb (b : Bool) : (writeCheck b s).resb = some b := rfl
@[simp] theorem writeCheck_resbv (b : Bool) : (writeCheck b s).resbv = true := rfl
@[simp] theorem writeCheck_tmo (b : Bool) : (writeCheck b s).tmo = s.tmo := rfl
@[simp] theorem writeCheck_flt (b : Bool) : (writeCheck b s).flt = s.flt := rfl
@[simp] theorem writeCheck_evts (b : Bool) : (writeCheck b s).evts = s.evts := rfl
@[simp] theorem writeCheck_crv (b : Bool) : (writeCheck b s).crv = s.crv := rfl
@[simp] theorem writeCheck_ticks (b : Bool) : (writeCheck b s).ticks = s.ticks := rfl
@[simp] theorem writeCheck_pollcnt (b : Bool) : (writeCheck b s).pollcnt = s.pollcnt := rfl
@[simp] theorem writeCheck_cfg (b : Bool) : (writeCheck b s).cfg = s.cfg := rfl
@[simp] theorem writeCheck_acq (b : Bool) : (writeCheck b s).acq = s.acq := rfl
@[simp] theorem writeCheck_host (b : Bool) : (writeCheck b s).host = s.host := rfl
@[simp] theorem writeCheck_ret (b : Bool) : (writeCheck b s).ret = s.ret := rfl
@[simp] theorem writeCheck_hostOut (b : Bool) : (writeCheck b s).hostOut = s.hostOut := rfl
@[simp] theorem writeCheck_env (b : Bool) : (writeCheck b s).env = s.env := rfl
@[simp] theorem writeCheck_bus (b : Bool) : (writeCheck b s).bus = s.bus := rfl

/-! ## emit -/

@[simp] theorem emit_sb (evs : List BusEvent) : (emit evs s).sb = s.sb := rfl
@[simp] theorem emit_sbcnt (evs : List BusEvent) : (emit evs s).sbcnt = s.sbcnt := rfl
@[simp] theorem emit_range (evs : List BusEvent) : (emit evs s).range = s.range := rfl
@[simp] theorem emit_gyst (evs : List BusEvent) : (emit evs s).gyst = s.gyst := rfl
@[simp] theorem emit_rawx (evs : List BusEvent) : (emit evs s).rawx = s.rawx := rfl
@[simp] theorem emit_rawy (evs : List BusEvent) : (emit evs s).rawy = s.rawy := rfl
@[simp] theorem emit_rawz (evs : List BusEvent) : (emit evs s).rawz = s.rawz := rfl
@[simp] theorem emit_res0 (evs : List BusEvent) : (emit evs s).res0 = s.res0 := rfl
@[simp] theorem emit_res1 (evs : List BusEvent) : (emit evs s).res1 = s.res1 := rfl
@[simp] theorem emit_res2 (evs : List BusEvent) : (emit evs s).res2 = s.res2 := rfl
@[simp] theorem emit_resv (evs : List BusEvent) : (emit evs s).resv = s.resv := rfl
@[simp] theorem emit_resb (evs : List BusEvent) : (emit evs s).resb = s.resb := rfl
@[simp] theorem emit_resbv (evs : List BusEvent) : (emit evs s).resbv = s.resbv := rfl
@[simp] theorem emit_tmo (evs : List BusEvent) : (emit evs s).tmo = s.tmo := rfl
@[simp] theorem emit_flt (evs : List BusEvent) : (emit evs s).flt = s.flt := rfl
@[simp] theorem emit_evts (evs : List BusEvent) : (emit evs s).evts = s.evts := rfl
@[simp] theorem emit_crv (evs : List BusEvent) : (emit evs s).crv = s.crv := rfl
@[simp] theorem emit_ticks (evs : List BusEvent) : (emit evs s).ticks = s.ticks := rfl
@[simp] theorem emit_pollcnt (evs : List BusEvent) : (emit evs s).pollcnt = s.pollcnt := rfl
@[simp] theorem emit_cfg (evs : List BusEvent) : (emit evs s).cfg = s.cfg := rfl
@[simp] theorem emit_acq (evs : List BusEvent) : (emit evs s).acq = s.acq := rfl
@[simp] theorem emit_host (evs : List BusEvent) : (emit evs s).host = s.host := rfl
@[simp] theorem emit_ret (evs : List BusEvent) : (emit evs s).ret = s.ret := rfl
@[simp] theorem emit_hostOut (evs : List BusEvent) : (emit evs s).hostOut = s.hostOut := rfl
@[simp] theorem emit_env (evs : List BusEvent) : (emit evs s).env = s.env := rfl
@[simp] theorem emit_bus (evs : List BusEvent) : (emit evs s).bus = s.bus ++ evs := rfl

/-! ## stopSequence -/

@[simp] theorem stopSequence_sb : (stopSequence s).sb = s.sb := rfl
@[simp] theorem stopSequence_sbcnt : (stopSequence s).sbcnt = s.sbcnt := rfl
@[simp] theorem stopSequence_range : (stopSequence s).range = s.range := rfl
@[simp] theorem stopSequence_gyst : (stopSequence s).gyst = s.gyst := rfl
@[simp] theorem stopSequence_rawx : (stopSequence s).rawx = s.rawx := rfl
@[simp] theorem stopSequence_rawy : (stopSequence s).rawy = s.rawy := rfl
@[simp] theorem stopSequence_rawz : (stopSequence s).rawz = s.rawz := rfl
@[simp] theorem stopSequence_res0 : (stopSequence s).res0 = s.res0 := rfl
@[simp] theorem stopSequence_res1 : (stopSequence s).res1 = s.res1 := rfl
@[simp] theorem stopSequence_res2 : (stopSequence s).res2 = s.res2 := rfl
@[simp] theorem stopSequence_resv : (stopSequence s).resv = s.resv := rfl
@[simp] theorem stopSequence_resb : (stopSequence s).resb = s.resb := rfl
@[simp] theorem stopSequence_resbv : (stopSequence s).resbv = s.resbv := rfl
@[simp] theorem stopSequence_tmo : (stopSequence s).tmo = s.tmo := rfl
@[simp] theorem stopSequence_flt : (stopSequence s).flt = s.flt := rfl
@[simp] theorem stopSequence_evts : (stopSequence s).evts = s.evts := rfl
@[simp] theorem stopSequence_crv : (stopSequence s).crv = s.crv := rfl
@[simp] theorem stopSequence_ticks : (stopSequence s).ticks = s.ticks := rfl
@[simp] theorem stopSequence_pollcnt : (stopSequence s).pollcnt = s.pollcnt := rfl
@[simp] theorem stopSequence_cfg : (stopSequence s).cfg = s.cfg := rfl
@[simp] theorem stopSequence_acq : (stopSequence s).acq = [] := rfl
@[simp] theorem stopSequence_host : (stopSequence s).host = s.host := rfl
@[simp] theorem stopSequence_ret : (stopSequence s).ret = some .nothing := rfl
@[simp] theorem stopSequence_hostOut : (stopSequence s).hostOut = s.hostOut := rfl
@[simp] theorem stopSequence_env : (stopSequence s).env = s.env := rfl
@[simp] theorem stopSequence_bus : (stopSequence s).bus = s.bus := rfl

/-! ## returnWith -/

@[simp] theorem returnWith_sb (r : Ret) : (returnWith r s).sb = s.sb := rfl
@[simp] theorem returnWith_sbcnt (r : Ret) : (returnWith r s).sbcnt = s.sbcnt := rfl
@[simp] theorem returnWith_range (r : Ret) : (returnWith r s).range = s.range := rfl
@[simp] theorem returnWith_gyst (r : Ret) : (returnWith r s).gyst = s.gyst := rfl
@[simp] theorem returnWith_rawx (r : Ret) : (returnWith r s).rawx = s.rawx := rfl
@[simp] theorem returnWith_rawy (r : Ret) : (returnWith r s).rawy = s.rawy := rfl
@[simp] theorem returnWith_rawz (r : Ret) : (returnWith r s).rawz = s.rawz := rfl
@[simp] theorem returnWith_res0 (r : Ret) : (returnWith r s).res0 = s.res0 := rfl
@[simp] theorem returnWith_res1 (r : Ret) : (returnWith r s).res1 = s.res1 := rfl
@[simp] theorem returnWith_res2 (r : Ret) : (returnWith r s).res2 = s.res2 := rfl
@[simp] theorem returnWith_resv (r : Ret) : (returnWith r s).resv = s.resv := rfl
@[simp] theorem returnWith_resb (r : Ret) : (returnWith r s).resb = s.resb := rfl
@[simp] theorem returnWith_resbv (r : Ret) : (returnWith r s).resbv = s.resbv := rfl
@[simp] theorem returnWith_tmo (r : Ret) : (returnWith r s).tmo = s.tmo := rfl
@[simp] theorem returnWith_flt (r : Ret) : (returnWith r s).flt = s.flt := rfl
@[simp] theorem returnWith_evts (r : Ret) : (returnWith r s).evts = s.evts := rfl
@[simp] theorem returnWith_crv (r : Ret) : (returnWith r s).crv = s.crv := rfl
@[simp] theorem returnWith_ticks (r : Ret) : (returnWith r s).ticks = s.ticks := rfl
@[simp] theorem returnWith_pollcnt (r : Ret) : (returnWith r s).pollcnt = s.pollcnt := rfl
@[simp] theorem returnWith_cfg (r : Ret) : (returnWith r s).cfg = s.cfg := rfl
@[simp] theorem returnWith_acq (r : Ret) : (returnWith r s).acq = [] := rfl
@[simp] theorem returnWith_host (r : Ret) : (returnWith r s).host = s.host := rfl
@[simp] theorem returnWith_ret (r : Ret) : (returnWith r s).ret = some r := rfl
@[simp] theorem returnWith_hostOut (r : Ret) : (returnWith r s).hostOut = s.hostOut := rfl
@[simp] theorem returnWith_env (r : Ret) : (returnWith r s).env = s.env := rfl
@[simp] theorem returnWith_bus (r : Ret) : (returnWith r s).bus = s.bus := rfl

/-! ## raise -/

@[simp] theorem raise_flt (c : FaultCode) (d : Dest) : (raise c d s).flt = s.flt ||| c.mask := rfl
@[simp] theorem raise_resv_res (c : FaultCode) : (raise c .res s).resv = 0 := rfl
@[simp] theorem raise_resv_res0 (c : FaultCode) : (raise c .res0 s).resv = s.resv &&& 0b110 := rfl
@[simp] theorem raise_resv_resb (c : FaultCode) : (raise c .resb s).resv = s.resv := rfl
@[simp] theorem raise_resv_none (c : FaultCode) : (raise c .none s).resv = s.resv := rfl
@[simp] theorem raise_resbv_res (c : FaultCode) : (raise c .res s).resbv = s.resbv := rfl
@[simp] theorem raise_resbv_res0 (c : FaultCode) : (raise c .res0 s).resbv = s.resbv := rfl
@[simp] theorem raise_resbv_resb (c : FaultCode) : (raise c .resb s).resbv = false := rfl
@[simp] theorem raise_resbv_none (c : FaultCode) : (raise c .none s).resbv = s.resbv := rfl
@[simp] theorem raise_sb (c : FaultCode) (d : Dest) : (raise c d s).sb = s.sb := by cases d <;> rfl
@[simp] theorem raise_sbcnt (c : FaultCode) (d : Dest) : (raise c d s).sbcnt = s.sbcnt := by cases d <;> rfl
@[simp] theorem raise_range (c : FaultCode) (d : Dest) : (raise c d s).range = s.range := by cases d <;> rfl
@[simp] theorem raise_gyst (c : FaultCode) (d : Dest) : (raise c d s).gyst = s.gyst := by cases d <;> rfl
@[simp] theorem raise_rawx (c : FaultCode) (d : Dest) : (raise c d s).rawx = s.rawx := by cases d <;> rfl
@[simp] theorem raise_rawy (c : FaultCode) (d : Dest) : (raise c d s).rawy = s.rawy := by cases d <;> rfl
@[simp] theorem raise_rawz (c : FaultCode) (d : Dest) : (raise c d s).rawz = s.rawz := by cases d <;> rfl
@[simp] theorem raise_res0 (c : FaultCode) (d : Dest) : (raise c d s).res0 = s.res0 := by cases d <;> rfl
@[simp] theorem raise_res1 (c : FaultCode) (d : Dest) : (raise c d s).res1 = s.res1 := by cases d <;> rfl
@[simp] theorem raise_res2 (c : FaultCode) (d : Dest) : (raise c d s).res2 = s.res2 := by cases d <;> rfl
@[simp] theorem raise_resb (c : FaultCode) (d : Dest) : (raise c d s).resb = s.resb := by cases d <;> rfl
@[simp] theorem raise_tmo (c : FaultCode) (d : Dest) : (raise c d s).tmo = s.tmo := by cases d <;> rfl
@[simp] theorem raise_evts (c : FaultCode) (d : Dest) : (raise c d s).evts = s.evts := by cases d <;> rfl
@[simp] theorem raise_crv (c : FaultCode) (d : Dest) : (raise c d s).crv = s.crv := by cases d <;> rfl
@[simp] theorem raise_ticks (c : FaultCode) (d : Dest) : (raise c d s).ticks = s.ticks := by cases d <;> rfl
@[simp] theorem raise_pollcnt (c : FaultCode) (d : Dest) : (raise c d s).pollcnt = s.pollcnt := by cases d <;> rfl
@[simp] theorem raise_cfg (c : FaultCode) (d : Dest) : (raise c d s).cfg = s.cfg := by cases d <;> rfl
@[simp] theorem raise_acq (c : FaultCode) (d : Dest) : (raise c d s).acq = s.acq := by cases d <;> rfl
@[simp] theorem raise_host (c : FaultCode) (d : Dest) : (raise c d s).host = s.host := by cases d <;> rfl
@[simp] theorem raise_ret (c : FaultCode) (d : Dest) : (raise c d s).ret = s.ret := by cases d <;> rfl
@[simp] theorem raise_hostOut (c : FaultCode) (d : Dest) : (raise c d s).hostOut = s.hostOut := by cases d <;> rfl
@[simp] theorem raise_env (c : FaultCode) (d : Dest) : (raise c d s).env = s.env := by cases d <;> rfl
@[simp] theorem raise_bus (c : FaultCode) (d : Dest) : (raise c d s).bus = s.bus := by cases d <;> rfl

end Sys2Proof.Machine
end

