-- ==== Sys2Proof/Laws/Ops.lean ====
section
/-! SUPPORT. One lemma for each shared operation, saying once all it can do. -/

namespace Sys2Proof.Machine

variable {s t : State}

/-! ## Reading -/

theorem need_eq_ok {α : Type} {r : Option α} {v : α} : need r = .ok v ↔ r = some v := by
  cases r <;> simp [need]

theorem need_eq_error {α : Type} {r : Option α} {c : FaultCode} :
    need r = .error c ↔ r = none ∧ c = .novalue := by
  cases r <;> simp [need, eq_comm]

@[simp] theorem need_some {α : Type} (v : α) : need (some v) = .ok v := rfl

@[simp] theorem need_none {α : Type} : need (none : Option α) = .error .novalue := rfl

theorem sample_eq_ok {i : Fin 7} {b : Byte} : sample i s = .ok b ↔ s.sb[i] = some b := need_eq_ok

theorem sample_of_some {i : Fin 7} {b : Byte} (h : s.sb[i] = some b) : sample i s = .ok b :=
  sample_eq_ok.2 h

theorem needCount_of_eq {n : Nat} (h : s.sbcnt.toNat = n) : needCount n s = .ok () := by
  simp [needCount, h]

theorem needCount_of_ne {n : Nat} (h : s.sbcnt.toNat ≠ n) : needCount n s = .error .short := by
  simp [needCount, h]

theorem needActive_of_active (h : s.gyst = .active) : needActive s = .ok () := by
  simp [needActive, h]

theorem needActive_of_uninitialized (h : s.gyst = .uninitialized) : needActive s = .error .notcfg := by
  simp [needActive, h]

theorem needRes0_of_valid {r : F} (hv : s.resv.getLsbD 0 = true) (h : s.res0 = some r) :
    needRes0 s = .ok r := by
  simp [needRes0, resultValid, hv, h]

theorem needRes0_of_invalid (hv : s.resv.getLsbD 0 = false) : needRes0 s = .error .novalue := by
  unfold needRes0 resultValid
  rw [hv]
  rfl

/-! ## Transforming a register in place -/

/-- A unit conversion ends in exactly one of two ways. -/
theorem convertRes0_cases (g : Rat → Rat) (s : State) :
    (∃ r, needRes0 s = .ok r ∧
        convertRes0 g s = .ok { s with res0 := some (convert s.cfg.num g r) }) ∨
      (∃ c, needRes0 s = .error c ∧ convertRes0 g s = .error c) := by
  unfold convertRes0
  cases needRes0 s with
  | ok r => exact .inl ⟨r, rfl, rfl⟩
  | error c => exact .inr ⟨c, rfl, rfl⟩

theorem convertRes0_of_ok {g : Rat → Rat} {r : F} (h : needRes0 s = .ok r) :
    convertRes0 g s = .ok { s with res0 := some (convert s.cfg.num g r) } := by
  simp only [convertRes0, h]; rfl

/-- A transformation of the control-register latch ends in exactly one of two ways. -/
theorem transformCrv_cases (g : Byte → Byte) (s : State) :
    (∃ c, s.crv = some c ∧ transformCrv g s = .ok { s with crv := some (g c) }) ∨
      (s.crv = none ∧ transformCrv g s = .error .novalue) := by
  unfold transformCrv
  cases s.crv with
  | none => exact .inr ⟨rfl, rfl⟩
  | some c => exact .inl ⟨c, rfl, rfl⟩

theorem transformCrv_of_some {g : Byte → Byte} {c : Byte} (h : s.crv = some c) :
    transformCrv g s = .ok { s with crv := some (g c) } := by
  simp only [transformCrv, h]; rfl

theorem transformCrv_of_none {g : Byte → Byte} (h : s.crv = none) :
    transformCrv g s = .error .novalue := by
  simp only [transformCrv, h]; rfl

/-! ## The end of a command -/

@[simp] theorem finish_ok (d : Dest) (s t : State) : finish d s (.ok t) = .next t := rfl

@[simp] theorem finish_error (d : Dest) (s : State) (c : FaultCode) :
    finish d s (.error c) = .next (raise c d s) := rfl

/-- A command always ends, with its writes or with its fault raised. -/
theorem finish_cases {d : Dest} {r : Except FaultCode State} (h : finish d s r = .next t) :
    r = .ok t ∨ ∃ c, r = .error c ∧ t = raise c d s := by
  cases r with
  | ok u => exact .inl (by simpa [finish] using h)
  | error c => exact .inr ⟨c, rfl, by simpa [finish] using h.symm⟩

/-! ## The environment's answers -/

theorem drawBytes_length (k : Nat) (e : Env) : (drawBytes k e).1.length = k := by
  induction k generalizing e with
  | zero => rfl
  | succ k ih => simp [drawBytes, ih]

/-- Bytes fixed in advance are delivered in order. -/
theorem drawBytes_fixed (bs more : List Byte) (e : Env) (h : e.bytes = bs ++ more) :
    drawBytes bs.length e = (bs, { e with bytes := more }) := by
  induction bs generalizing e with
  | nil => cases e; simp_all [drawBytes]
  | cons b bs ih =>
    have h1 : drawByte e = (b, { e with bytes := bs ++ more }) := by
      rw [drawByte, h]; rfl
    simp only [List.length_cons, drawBytes, h1]
    rw [ih { e with bytes := bs ++ more } rfl]

theorem drawCount_fixed {n k : Nat} {ks : List Nat} {e : Env} (h : e.counts = k :: ks) :
    drawCount n e = (k, { e with counts := ks }) := by
  rw [drawCount, h]

theorem drawByte_fixed {b : Byte} {bs : List Byte} {e : Env} (h : e.bytes = b :: bs) :
    drawByte e = (b, { e with bytes := bs }) := by
  rw [drawByte, h]

/-- A count that is not fixed in advance obeys the law of R64. -/
theorem drawCount_free_le {n : Nat} {e : Env} (h : e.counts = []) : (drawCount n e).1 ≤ n := by
  simp only [drawCount, h]
  exact Nat.le_of_lt_succ (Config.freeCount e.spend.1 n).isLt

theorem drawTicks_fixed {v : Nat} {vs : List Nat} {e : Env} (h : e.ticks = v :: vs) :
    drawTicks e = (v, { e with ticks := vs }) := by
  rw [drawTicks, h]

end Sys2Proof.Machine
end

