-- ==== Sys2Proof/Laws/Exec.lean ====
section
/-! SUPPORT. Every command is its writes or its fault, and what a sequence's action can do. -/

namespace Sys2Proof.Machine

/-- `exec` is the command, ended by `finish` with the destination R241 names. -/
theorem exec_eq_finish (i : Instr) (s : State) : exec i s = finish (destOf i) s (command i s) := by
  cases i <;> rfl

theorem exec_of_ok {i : Instr} {s t : State} (h : command i s = .ok t) : exec i s = .next t := by
  rw [exec_eq_finish, h, finish_ok]

theorem exec_of_error {i : Instr} {s : State} {c : FaultCode} (h : command i s = .error c) :
    exec i s = .next (raise c (destOf i) s) := by
  rw [exec_eq_finish, h, finish_error]

/-- What a command can end in: its writes, with nothing raised, or exactly one fault. -/
theorem exec_cases {i : Instr} {s t : State} (h : exec i s = .next t) :
    (raisedBy i s = none ∧ command i s = .ok t) ∨
      (∃ c, raisedBy i s = some c ∧ t = raise c (destOf i) s) := by
  rw [exec_eq_finish] at h
  unfold raisedBy
  rcases finish_cases h with h' | ⟨c, h', rfl⟩
  · exact .inl ⟨by rw [h'], h'⟩
  · exact .inr ⟨c, by rw [h'], rfl⟩

/-- A word on the command port that decodes runs its command. -/
theorem runWord_of_decode {w : Cmd} {i : Instr} {s : State} (h : decode w = .ok i) : runWord w s = exec i s := by
  unfold runWord
  rw [h]

/-- A reserved word raises ILLEGAL. -/
theorem runWord_of_reject {w : Cmd} {r : Reject} {s : State} (h : decode w = .error r) :
    runWord w s = .next (raise .illegal .none s) := by
  unfold runWord
  rw [h]

/-- A command inside a sequence: it runs, and its fault stops the sequence. -/
theorem actDp_cases {w : Cmd} {i : Instr} {s : State} (h : decode w = .ok i) :
    (raisedBy i s = none ∧ actDp w s = exec i s) ∨
      (∃ c, raisedBy i s = some c ∧ actDp w s = .next (stopSequence (raise c (destOf i) s))) := by
  unfold actDp
  rw [h, runWord_of_decode h]
  cases hr : raisedBy i s with
  | none => exact .inl ⟨rfl, by simp only [hr]⟩
  | some c =>
    refine .inr ⟨c, rfl, ?_⟩
    have hc : command i s = .error c := by
      unfold raisedBy at hr
      split at hr <;> simp_all
    simp only [hr, exec_of_error hc, thenStop]

/-- A one-byte read ends in exactly one of two ways: a byte, or SHORT and the end of the sequence. -/
theorem withRead8_cases (dev : Dev) (reg : Byte) (k : Byte → State → State) (s : State) :
    (∃ b t, busRead8 dev reg s = (some b, t) ∧ withRead8 dev reg k s = k b t) ∨
      (∃ t, busRead8 dev reg s = (none, t) ∧
        withRead8 dev reg k s = stopSequence (raise .short (destOfText t.acq) t)) := by
  unfold withRead8
  rcases h : busRead8 dev reg s with ⟨_ | b, t⟩
  · exact .inr ⟨t, rfl, rfl⟩
  · exact .inl ⟨b, t, rfl, rfl⟩

/-- A one-byte read touches nothing but the environment and the record of bus events. -/
theorem busRead8_frame {dev : Dev} {reg : Byte} {s t : State} {b : Option Byte}
    (h : busRead8 dev reg s = (b, t)) : t = { s with env := t.env, bus := t.bus } := by
  unfold busRead8 at h
  split at h <;> (cases h; rfl)

/-- A one-byte read whose answers are fixed in advance. -/
theorem busRead8_fixed {dev : Dev} {reg b : Byte} {s : State} {ks : List Nat} {bs : List Byte}
    (hc : s.env.counts = 1 :: ks) (hb : s.env.bytes = b :: bs) :
    busRead8 dev reg s = (some b,
      { emit (addressPhase s.cfg dev reg ++ [.requestRead (devAddr s.cfg dev) 1, .read]) s with
        env := { s.env with counts := ks, bytes := bs } }) := by
  unfold busRead8
  rw [drawCount_fixed hc]
  simp only [if_pos]
  rw [drawByte_fixed (e := { s.env with counts := ks }) hb]

/-- Bytes that arrive fill the sample buffer from its first cell on, and no other cell holds a byte. -/
theorem actFill_sample (k : Nat) (s : State) : (actFill k s).sampleInv := by
  intro i
  have hl := drawBytes_length (min k 7) s.env
  have hn : (BitVec.ofNat 3 (min k 7)).toNat = min k 7 := by
    simp only [BitVec.toNat_ofNat]
    omega
  simp only [actFill, hn]
  simp [hl]

/-- A one-byte read that does not deliver one byte. -/
theorem busRead8_short {dev : Dev} {reg : Byte} {s : State} {k : Nat} {ks : List Nat}
    (hc : s.env.counts = k :: ks) (hk : k ≠ 1) :
    busRead8 dev reg s = (none,
      { emit (addressPhase s.cfg dev reg ++ [.requestRead (devAddr s.cfg dev) 1]) s with
        env := { s.env with counts := ks } }) := by
  unfold busRead8
  rw [drawCount_fixed hc]
  exact if_neg hk

/-- The destination of a text is that of its one return. -/
theorem destOfText_append_ret {mid : List Act} (k : RetKind) (h : ∀ r, Act.ret r ∉ mid) :
    destOfText (mid ++ [.ret k]) = k.dest := by
  induction mid with
  | nil => rfl
  | cons a mid ih =>
    cases a
    case ret r => exact absurd List.mem_cons_self (h r)
    all_goals exact ih fun r hr => h r (List.mem_cons_of_mem _ hr)

/-- The table of the registers has a row for each, with what the host sees. -/
theorem mem_registerTable (s : State) (r : Reg) : (r, hostView r s) ∈ registerTable s := by
  cases r
  case gyst => cases hg : s.gyst <;> simp [hostView, registerTable, hg]
  case rawx | rawy | rawz => simp [hostView, registerTable, sext, BitVec.toInt_eq_msb_cond]
  all_goals simp [hostView, registerTable, resultValid]

/-- A row of the table is what the host sees of that register. -/
theorem hostView_of_mem_registerTable {s : State} {r : Reg} {v : Option RegVal} (h : (r, v) ∈ registerTable s) :
    hostView r s = v := by
  simp only [registerTable, List.mem_append, List.mem_map, List.mem_finRange, true_and, List.mem_cons,
    List.not_mem_nil, or_false, Prod.mk.injEq] at h
  rcases h with ((⟨i, rfl, rfl⟩ | h) | h) | h
  · rfl
  all_goals rcases h with ⟨rfl, rfl⟩ | ⟨rfl, rfl⟩ | ⟨rfl, rfl⟩ | ⟨rfl, rfl⟩ | ⟨rfl, rfl⟩ | ⟨rfl, rfl⟩
  case inl.inl.inr.inr.inr.inl => cases hg : s.gyst <;> simp [hostView, hg]
  all_goals first
    | rfl
    | simp only [hostView]; congr 1; funext v; congr 1; simp [sext, BitVec.toInt_eq_msb_cond]

end Sys2Proof.Machine
end

