-- ==== Sys2Proof/Laws/Num.lean ====
section
/-! SUPPORT. The binary32 rounding: its exponent, its rounding to an integer, and the magnitude its bits denote. -/

namespace Sys2Proof.Machine

/-- `pow2Le` compares with the rational power of two. -/
theorem pow2Le_iff {e : Int} {a d : Nat} (hd : 0 < d) :
    pow2Le e a d = true ↔ (2 : Rat) ^ e ≤ (a : Rat) / d := by
  have hd' : (0 : Rat) < d := by exact_mod_cast hd
  rw [pow2Le, decide_eq_true_iff, le_div_iff₀ hd']
  have h2 : (2 : Rat) ^ e = 2 ^ e.toNat / 2 ^ (-e).toNat := by
    rcases le_total 0 e with h | h
    · rw [show (-e).toNat = 0 by omega, pow_zero, div_one, ← zpow_natCast, Int.toNat_of_nonneg h]
    · rw [show e.toNat = 0 by omega, pow_zero, one_div, ← zpow_natCast, Int.toNat_of_nonneg (by omega), zpow_neg, inv_inv]
  rw [h2, div_mul_eq_mul_div, div_le_iff₀ (by positivity), mul_comm]
  exact_mod_cast Iff.rfl

/-- The exponent of a positive rational. -/
theorem ilog2_spec {a d : Nat} (ha : 0 < a) (hd : 0 < d) :
    (2 : Rat) ^ ilog2 a d ≤ (a : Rat) / d ∧ (a : Rat) / d < 2 ^ (ilog2 a d + 1) := by
  have hd' : (0 : Rat) < d := by exact_mod_cast hd
  have two : (1 : Rat) < 2 := by norm_num
  have a1 : (2 : Rat) ^ (a.log2 : Int) ≤ a := by exact_mod_cast Nat.log2_self_le ha.ne'
  have a2 : (a : Rat) < 2 ^ ((a.log2 : Int) + 1) := by exact_mod_cast Nat.lt_log2_self
  have d1 : (2 : Rat) ^ (d.log2 : Int) ≤ d := by exact_mod_cast Nat.log2_self_le hd.ne'
  have d2 : (d : Rat) < 2 ^ ((d.log2 : Int) + 1) := by exact_mod_cast Nat.lt_log2_self
  have hi : (a : Rat) / d < 2 ^ ((a.log2 : Int) - d.log2 + 1) := by
    rw [div_lt_iff₀ hd']
    calc (a : Rat) < 2 ^ ((a.log2 : Int) + 1) := a2
      _ = 2 ^ ((a.log2 : Int) - d.log2 + 1) * 2 ^ (d.log2 : Int) := by rw [← zpow_add₀ (by norm_num)]; congr 1; ring
      _ ≤ _ := by gcongr
  have lo : (2 : Rat) ^ ((a.log2 : Int) - d.log2 - 1) ≤ (a : Rat) / d := by
    rw [le_div_iff₀ hd']
    calc (2 : Rat) ^ ((a.log2 : Int) - d.log2 - 1) * d
        ≤ 2 ^ ((a.log2 : Int) - d.log2 - 1) * 2 ^ ((d.log2 : Int) + 1) := by gcongr
      _ = 2 ^ (a.log2 : Int) := by rw [← zpow_add₀ (by norm_num)]; congr 1; ring
      _ ≤ _ := a1
  unfold ilog2
  split
  · rename_i h
    exact ⟨(pow2Le_iff hd).1 h, hi⟩
  · rename_i h
    refine ⟨lo, ?_⟩
    rw [pow2Le_iff hd, not_le] at h
    simpa using h

/-- Rounding is within half a unit. -/
theorem roundHalfEven_near (n : Nat) {m : Nat} (hm : 0 < m) :
    2 * n ≤ (2 * roundHalfEven n m + 1) * m ∧ 2 * roundHalfEven n m * m ≤ 2 * n + m := by
  have h := Nat.div_add_mod n m
  have hr := Nat.mod_lt n hm
  generalize hq : n / m = q at *
  generalize hr' : n % m = r at *
  unfold roundHalfEven
  rw [hq, hr']
  rcases Nat.mod_two_eq_zero_or_one q with hp | hp
  all_goals
    split
    · constructor <;> nlinarith
    · split
      · constructor <;> nlinarith
      · have : 2 * r = m := by omega
        rw [hp]; constructor <;> nlinarith

/-- A tie goes to the even integer. -/
theorem roundHalfEven_tie (n : Nat) {m : Nat} (hm : 0 < m)
    (h : 2 * n = (2 * roundHalfEven n m + 1) * m ∨ 2 * roundHalfEven n m * m = 2 * n + m) :
    roundHalfEven n m % 2 = 0 := by
  have h' := Nat.div_add_mod n m
  have hr := Nat.mod_lt n hm
  unfold roundHalfEven at h ⊢
  generalize n / m = q at *
  generalize n % m = r at *
  have hq := Nat.mod_two_eq_zero_or_one q
  split at h
  · exfalso; rcases h with h | h <;> nlinarith
  · split at h
    · exfalso; rcases h with h | h <;> nlinarith
    · rename_i h1 h2
      rw [if_neg h1, if_neg h2]
      omega

/-- Rounding is monotone. -/
theorem roundHalfEven_mono {n m n' m' : Nat} (hm : 0 < m) (hm' : 0 < m')
    (h : (n : Rat) / m ≤ (n' : Rat) / m') : roundHalfEven n m ≤ roundHalfEven n' m' := by
  by_contra hlt
  rw [not_le] at hlt
  have h1 := (roundHalfEven_near n hm).2
  have h2 := (roundHalfEven_near n' hm').1
  have t1 := roundHalfEven_tie n hm
  have t2 := roundHalfEven_tie n' hm'
  set R := roundHalfEven n m
  set R' := roundHalfEven n' m'
  have hm1 : (0 : Rat) < m := by exact_mod_cast hm
  have hm2 : (0 : Rat) < m' := by exact_mod_cast hm'
  have e1 : (2 * R : Rat) - 1 ≤ 2 * ((n : Rat) / m) := by
    have : (2 * R * m : Rat) ≤ 2 * n + m := by exact_mod_cast h1
    rw [← mul_div_assoc, le_div_iff₀ hm1]; linarith
  have e2 : 2 * ((n' : Rat) / m') ≤ 2 * R' + 1 := by
    have : (2 * n' : Rat) ≤ (2 * R' + 1) * m' := by exact_mod_cast h2
    rw [← mul_div_assoc, div_le_iff₀ hm2]; linarith
  have hR : (R' : Rat) + 1 ≤ R := by exact_mod_cast hlt
  have q1 : 2 * ((n : Rat) / m) = 2 * R - 1 := by linarith
  have q2 : 2 * ((n' : Rat) / m') = 2 * R' + 1 := by linarith
  have q3 : R = R' + 1 := by
    have : (R : Rat) = R' + 1 := by linarith
    exact_mod_cast this
  have z1 : R % 2 = 0 := t1 (.inr (by
    have : (2 * R * m : Rat) = 2 * n + m := by field_simp at q1; linarith
    exact_mod_cast this))
  have z2 : R' % 2 = 0 := t2 (.inl (by
    have : (2 * n' : Rat) = (2 * R' + 1) * m' := by field_simp at q2; linarith
    exact_mod_cast this))
  omega

/-- The fields of a pattern given as a number. -/
theorem fields_ofNat (v : Nat) :
    expField (BitVec.ofNat 32 v) = v / 8388608 % 256 ∧ fracField (BitVec.ofNat 32 v) = v % 8388608 := by
  simp only [expField, fracField, BitVec.extractLsb'_toNat, BitVec.toNat_ofNat, Nat.shiftRight_eq_div_pow,
    Nat.reducePow]
  constructor <;> omega

/-- The quotient in `b32Mag` is a power of two. -/
theorem scaled_eq (k : Nat) (j : Int) :
    ((k * 2 ^ j.toNat : Nat) : Rat) / ((2 ^ (-j).toNat : Nat) : Rat) = (k : Rat) * 2 ^ j := by
  push_cast
  rcases le_total 0 j with h | h
  · rw [show (-j).toNat = 0 by omega, pow_zero, div_one, ← zpow_natCast, Int.toNat_of_nonneg h]
  · rw [show j.toNat = 0 by omega, pow_zero, mul_one, ← zpow_natCast, Int.toNat_of_nonneg (by omega), zpow_neg,
      div_eq_mul_inv, inv_inv]

/-- The magnitude of a pattern, by its fields. -/
theorem b32Mag_eq (b : BitVec 32) :
    b32Mag b = if expField b = 0 then (fracField b : Rat) * 2 ^ (-149 : Int)
      else ((8388608 + fracField b : Nat) : Rat) * 2 ^ ((expField b : Int) - 150) := by
  unfold b32Mag
  rw [scaled_eq]
  unfold sigOf lastPlace
  split <;> rfl

/-- The magnitude that bits built from an exponent `E` and a significand `m` denote. -/
theorem b32Mag_of_parts {E m : Nat} (hE : E = 0 ∨ 8388608 ≤ m) (hm : m ≤ 16777216)
    (hb : E * 8388608 + m < 2139095040) (sgn : Nat) (hs : sgn = 0 ∨ sgn = 2147483648) :
    b32Finite (BitVec.ofNat 32 (sgn + (E * 8388608 + m))) = true ∧
      b32Mag (BitVec.ofNat 32 (sgn + (E * 8388608 + m))) = (m : Rat) * 2 ^ ((E : Int) - 149) := by
  have key : ∀ (x f : Nat), x < 255 → f < 8388608 → E * 8388608 + m = x * 8388608 + f →
      expField (BitVec.ofNat 32 (sgn + (E * 8388608 + m))) = x ∧
        fracField (BitVec.ofNat 32 (sgn + (E * 8388608 + m))) = f := by
    intro x f hx hf he
    rw [(fields_ofNat _).1, (fields_ofNat _).2]
    rcases hs with rfl | rfl <;> constructor <;> omega
  rw [b32Mag_eq]
  unfold b32Finite
  rcases Nat.lt_or_ge m 8388608 with h1 | h1
  · obtain ⟨k1, k2⟩ := key 0 m (by omega) h1 (by omega)
    have e0 : E = 0 := by omega
    rw [k1, k2, e0]
    exact ⟨rfl, rfl⟩
  · rcases Nat.lt_or_ge m 16777216 with h2 | h2
    · obtain ⟨k1, k2⟩ := key (E + 1) (m - 8388608) (by omega) (by omega) (by omega)
      rw [k1, k2, if_neg (by omega), show 8388608 + (m - 8388608) = m by omega,
        show ((E + 1 : Nat) : Int) - 150 = (E : Int) - 149 by push_cast; ring]
      exact ⟨by simp only [bne_iff_ne]; omega, rfl⟩
    · obtain ⟨k1, k2⟩ := key (E + 2) 0 (by omega) (by omega) (by omega)
      have em : m = 16777216 := by omega
      rw [k1, k2, if_neg (by omega), em,
        show ((E + 2 : Nat) : Int) - 150 = ((E : Int) - 149) + 1 by push_cast; ring, zpow_add₀ (by norm_num)]
      refine ⟨by simp only [bne_iff_ne]; omega, ?_⟩
      push_cast
      ring

end Sys2Proof.Machine
end

