-- ==== Sys2Proof/Laws/Operands.lean ====
section
/-! SUPPORT. Operand assembly in natural numbers: what the reassembly primitives and the fields are as
arithmetic on the bytes' values. -/

namespace Sys2Proof.Machine

theorem be16_toNat (b0 b1 : Byte) : (be16 b0 b1).toNat = 256 * b0.toNat + b1.toNat := by
  have h0 := b0.isLt
  have h1 := b1.isLt
  have e := Nat.shiftLeft_add_eq_or_of_lt h1 b0.toNat
  simp only [be16, BitVec.toNat_or, BitVec.toNat_shiftLeft, BitVec.toNat_setWidth, Nat.shiftLeft_eq] at *
  rw [Nat.mod_eq_of_lt (by omega : b0.toNat < 2 ^ 16), Nat.mod_eq_of_lt (by omega : b1.toNat < 2 ^ 16),
    Nat.mod_eq_of_lt (by omega : b0.toNat * 2 ^ 8 < 2 ^ 16), ← e]
  omega

theorem be24_toNat (b0 b1 b2 : Byte) :
    (be24 b0 b1 b2).toNat = 65536 * b0.toNat + 256 * b1.toNat + b2.toNat := by
  have h0 := b0.isLt
  have h1 := b1.isLt
  have h2 := b2.isLt
  have w0 : (b0.setWidth 24 <<< 16).toNat = b0.toNat <<< 16 := by
    simp only [BitVec.toNat_shiftLeft, BitVec.toNat_setWidth, Nat.shiftLeft_eq]
    omega
  have w1 : (b1.setWidth 24 <<< 8).toNat = b1.toNat <<< 8 := by
    simp only [BitVec.toNat_shiftLeft, BitVec.toNat_setWidth, Nat.shiftLeft_eq]
    omega
  have w2 : (b2.setWidth 24).toNat = b2.toNat := by
    simp only [BitVec.toNat_setWidth]
    omega
  have l1 : b1.toNat <<< 8 < 2 ^ 16 := by
    simp only [Nat.shiftLeft_eq]
    omega
  unfold be24
  rw [BitVec.toNat_or, BitVec.toNat_or, w0, w1, w2, ← Nat.shiftLeft_add_eq_or_of_lt l1,
    show b0.toNat <<< 16 + b1.toNat <<< 8 = (b0.toNat <<< 8 + b1.toNat) <<< 8 by
      simp only [Nat.shiftLeft_eq]; omega,
    ← Nat.shiftLeft_add_eq_or_of_lt h2]
  simp only [Nat.shiftLeft_eq]
  omega

@[simp] theorem be16u_eq (b0 b1 : Byte) : be16u b0 b1 = 256 * b0.toNat + b1.toNat := be16_toNat b0 b1

/-- `sext_N` is the two's-complement reading (R12). -/
theorem sext_eq_toInt {n : Nat} (v : BitVec n) : sext v = v.toInt := by
  unfold sext
  rw [BitVec.toInt_eq_msb_cond]
  push_cast
  rfl

/-- `neg_N(v) = (2^N − v) mod 2^N` (R12). -/
theorem neg_toNat {n : Nat} (v : BitVec n) : (neg v).toNat = (2 ^ n - v.toNat) % 2 ^ n := by
  unfold neg
  rw [← BitVec.toNat_neg, BitVec.neg_eq_not_add]
  rfl

theorem highNibble_eq (b : Byte) : highNibble b = b.toNat / 16 := by
  have h := b.isLt
  simp only [highNibble, BitVec.extractLsb'_toNat, Nat.shiftRight_eq_div_pow]
  omega

theorem lowNibble_eq (b : Byte) : lowNibble b = b.toNat % 16 := by
  simp [lowNibble, BitVec.extractLsb'_toNat]

theorem presInt_eq (b0 b1 b2 : Byte) :
    presInt b0 b1 b2 = (65536 * b0.toNat + 256 * b1.toNat + b2.toNat) / 64 := by
  simp [presInt, BitVec.toNat_ushiftRight, be24_toNat, Nat.shiftRight_eq_div_pow]

theorem presFrac_eq (b2 : Byte) : presFrac b2 = b2.toNat / 16 % 4 := by
  have key : ∀ b : BitVec 8, ((b &&& 0x30) >>> 4).toNat = b.toNat / 16 % 4 := by decide +kernel
  exact key b2

theorem tempPattern_toNat (b0 b1 : Byte) : (tempPattern b0 b1).toNat = 16 * b0.toNat + b1.toNat / 16 := by
  have h0 := b0.isLt
  have h1 := b1.isLt
  have e := Nat.shiftLeft_add_eq_or_of_lt (by omega : b1.toNat / 2 ^ 4 < 2 ^ 4) b0.toNat
  simp only [tempPattern, BitVec.toNat_or, BitVec.toNat_shiftLeft, BitVec.toNat_setWidth,
    BitVec.extractLsb'_toNat, Nat.shiftLeft_eq, Nat.shiftRight_eq_div_pow] at *
  rw [Nat.mod_eq_of_lt (by omega : b0.toNat < 2 ^ 12), Nat.mod_eq_of_lt (by omega : b0.toNat * 2 ^ 4 < 2 ^ 12),
    Nat.mod_eq_of_lt (by omega : b1.toNat / 2 ^ 4 < 2 ^ 4), Nat.mod_eq_of_lt (by omega : b1.toNat / 2 ^ 4 < 2 ^ 12), ← e]
  omega

theorem tempInt_eq (m : BitVec 12) : tempInt m = m.toNat / 16 := by
  have h := m.isLt
  simp only [tempInt, BitVec.extractLsb'_toNat, Nat.shiftRight_eq_div_pow]
  omega

theorem tempFrac_eq (m : BitVec 12) : tempFrac m = m.toNat % 16 := by
  simp [tempFrac, BitVec.extractLsb'_toNat]

/-- An 8+4 magnitude is its pattern over 16 (R96). -/
theorem tempMagnitude_eq (m : BitVec 12) : tempMagnitude m = (m.toNat : Rat) / 16 := by
  have h := Nat.div_add_mod m.toNat 16
  unfold tempMagnitude
  rw [tempInt_eq, tempFrac_eq]
  have hq : (m.toNat : Rat) = 16 * ((m.toNat / 16 : Nat) : Rat) + ((m.toNat % 16 : Nat) : Rat) := by
    exact_mod_cast h.symm
  rw [hq]
  ring

/-! ## Bits of the control register -/

theorem setbit_getLsbD (c : Byte) (b j : Nat) (hj : j < 8) :
    (setbit c b).getLsbD j = (c.getLsbD j || decide (j = b)) := by
  simp only [setbit, BitVec.getLsbD_or, BitVec.getLsbD_shiftLeft, BitVec.getLsbD_one]
  by_cases h : j = b
  · subst h; simp [hj]
  · simp [h, hj]; omega

theorem clrbit_getLsbD (c : Byte) (b j : Nat) (hj : j < 8) :
    (clrbit c b).getLsbD j = (c.getLsbD j && !decide (j = b)) := by
  simp only [clrbit, BitVec.getLsbD_and, BitVec.getLsbD_not, BitVec.getLsbD_shiftLeft, BitVec.getLsbD_one]
  by_cases h : j = b
  · subst h; simp [hj]
  · simp [h, hj]; omega

end Sys2Proof.Machine
end

