-- ==== Sys2Proof/Laws/PerInstr.lean ====
section
/-! SUPPORT. The opcode map, instruction by instruction: the high nibble of the word is the family (R83). -/

namespace Sys2Proof.Laws.Opcode

/-- The word of a well-formed instruction carries its family in `cmd[15:12]` (R83). -/
def Statement (i : Instr) : Prop := i.WellFormed → opcodeOf (encode i) / 16 = i.family.code

theorem htInitchk : Statement .htInitchk := fun _ => by decide
theorem htTemp : Statement .htTemp := fun _ => by decide
theorem htHum : Statement .htHum := fun _ => by decide
theorem gyBegin (r : Nat) : Statement (.gyBegin r) := fun h => by
  have key : ∀ r : Fin 4, opcodeOf (encode (.gyBegin r.val)) / 16 = 1 := by decide +kernel
  exact key ⟨r, of_decide_eq_true h⟩
theorem gyEvent : Statement .gyEvent := fun _ => by decide
theorem gyMeta : Statement .gyMeta := fun _ => by decide
theorem baAlt : Statement .baAlt := fun _ => by decide
theorem baPres : Statement .baPres := fun _ => by decide
theorem baTemp : Statement .baTemp := fun _ => by decide
theorem baTmo : Statement .baTmo := fun _ => by decide
theorem baAltft : Statement .baAltft := fun _ => by decide
theorem baTempf : Statement .baTempf := fun _ => by decide
theorem crModebar : Statement .crModebar := fun _ => by decide
theorem crModealt : Statement .crModealt := fun _ => by decide
theorem crStandby : Statement .crStandby := fun _ => by decide
theorem crActive : Statement .crActive := fun _ => by decide
theorem crOsr (n : Nat) : Statement (.crOsr n) := fun h => by
  have key : ∀ n : Fin 256, opcodeOf (encode (.crOsr n.val)) / 16 = 3 := by decide +kernel
  exact key ⟨n, of_decide_eq_true h⟩
theorem crOstclr : Statement .crOstclr := fun _ => by decide
theorem crOstset : Statement .crOstset := fun _ => by decide
theorem crEvflags : Statement .crEvflags := fun _ => by decide

end Sys2Proof.Laws.Opcode
end

