-- ==== Sys2Proof/Tests/Slice0.lean ====
section
/-! SUPPORT. The model's own tests: the well-formedness smoke, the decoder on words written out from R81 and R84,
one-step vectors of spec/95_test_vectors.md (each theorem names its section), and for every statement with hypotheses
a concrete state that meets them. -/

namespace Sys2Proof.Tests

open Sys2Proof Sys2Proof.Machine

set_option Elab.async false

/-- The state after reset, under the suggested configuration the vectors assume. -/
def base : State := { State.reset with cfg := Cfg.suggested }

/-- `base` with a sample in `SB`. -/
def withSample (l : List Byte) (s : State := base) : State :=
  { s with sb := Vector.ofFn fun i => l[i.val]?, sbcnt := BitVec.ofNat 3 l.length }

/-- `base` with a value in `CRV`. -/
def withCrv (c : Byte) : State := { base with crv := some c }

/-- `base` with a binary32 number in `RES0`. -/
def withRes0 (b : BitVec 32) : State := { base with res0 := some (.b32 b), resv := 0b001 }

/-- The gyroscope driver Active in range `r`, the tick latched. -/
def activeGyro (r : BitVec 2) : State := { base with range := some r, gyst := .active, ticks := some 0x0000BEEF }

/-- The environment that gives these answers. -/
def answers (counts : List Nat) (bytes : List Byte) (waits : List (Option Nat)) (ticks : List Nat) : Env :=
  { counts := counts, bytes := bytes, waits := waits, ticks := ticks, draws := 0 }

/-- `base` with ACQ idle, a request to start `call`, and the environment's answers. -/
def starting (call : DriverCall) (e : Env) : State := { base with host := [.start call], env := e }

/-- The outcome is a next state of which `p` holds. -/
def gives (o : Out) (p : State → Bool) : Bool :=
  match o with
  | .next t => p t
  | .fault _ => false
  | .refused _ => false

/-! ## Well-formedness: an ill-formed term for each check -/

theorem test_wf_range_four_refused : Instr.wf (.gyBegin 4) = false ∧ Instr.wf (.gyBegin 3) = true := by decide
theorem test_wf_rate_256_refused : Instr.wf (.crOsr 256) = false ∧ Instr.wf (.crOsr 255) = true := by decide
theorem test_cfg_suggested_lawful : Cfg.suggested.lawful = true := by decide +kernel
theorem test_cfg_zero_sensitivity_refused :
    Cfg.lawful { Cfg.suggested with sens := #v[1/128, 1/64, 0, 1/16] } = false := by decide +kernel
theorem test_cfg_ranges_not_ascending_refused :
    Cfg.lawful { Cfg.suggested with rangeDps := #v[2000, 1000, 500, 250] } = false := by decide +kernel
theorem test_cfg_zero_range_refused :
    Cfg.lawful { Cfg.suggested with rangeDps := #v[0, 500, 1000, 2000] } = false := by decide +kernel
theorem test_cfg_two_bit_alt_mask_refused :
    Cfg.lawful { Cfg.suggested with baRdyAlt := 0x06 } = false := by decide +kernel
theorem test_cfg_empty_temp_mask_refused :
    Cfg.lawful { Cfg.suggested with baRdyTemp := 0x00 } = false := by decide +kernel
theorem test_cfg_bits_in_the_rate_field_refused :
    Cfg.lawful { Cfg.suggested with baAltBit := 5 } = false ∧
    Cfg.lawful { Cfg.suggested with baSbybBit := 4 } = false ∧
    Cfg.lawful { Cfg.suggested with baOstBit := 3 } = false := by decide +kernel
theorem test_cfg_equal_bits_refused :
    Cfg.lawful { Cfg.suggested with baOstBit := 0 } = false := by decide +kernel

/-! ## Decoding: words written out bit by bit from R81 and R84; reserved words of spec/95 section 6 -/

theorem test_decode_ht :
    decode 0b0000000100000000#16 = .ok .htInitchk ∧ decode 0b0000001000000000#16 = .ok .htTemp ∧
    decode 0b0000001100000000#16 = .ok .htHum := by decide +kernel
theorem test_decode_gy :
    decode 0b0001000000000000#16 = .ok (.gyBegin 0) ∧ decode 0b0001000000000001#16 = .ok (.gyBegin 1) ∧
    decode 0b0001000000000011#16 = .ok (.gyBegin 3) ∧ decode 0b0001000100000000#16 = .ok .gyEvent ∧
    decode 0b0001001000000000#16 = .ok .gyMeta := by decide +kernel
theorem test_decode_ba :
    decode 0b0010000000000000#16 = .ok .baAlt ∧ decode 0b0010000100000000#16 = .ok .baPres ∧
    decode 0b0010001000000000#16 = .ok .baTemp ∧ decode 0b0010001100000000#16 = .ok .baTmo ∧
    decode 0b0010010000000000#16 = .ok .baAltft ∧ decode 0b0010010100000000#16 = .ok .baTempf := by decide +kernel
theorem test_decode_cr :
    decode 0b0011000000000000#16 = .ok .crModebar ∧ decode 0b0011000100000000#16 = .ok .crModealt ∧
    decode 0b0011001000000000#16 = .ok .crStandby ∧ decode 0b0011001100000000#16 = .ok .crActive ∧
    decode 0b0011010000000101#16 = .ok (.crOsr 5) ∧ decode 0b0011010111111111#16 = .error .immediateNotZero ∧
    decode 0b0011010100000000#16 = .ok .crOstclr ∧ decode 0b0011011000000000#16 = .ok .crOstset ∧
    decode 0b0011011100000000#16 = .ok .crEvflags := by decide +kernel
theorem test_decode_reserved :
    decode 0x0201 = .error .immediateNotZero ∧ decode 0x0000 = .error .unusedFunction ∧
    decode 0x0400 = .error .unusedFunction ∧ decode 0x1004 = .error .rangeFieldNotZero ∧
    decode 0x10FF = .error .rangeFieldNotZero ∧ decode 0x1300 = .error .unusedFunction ∧
    decode 0x2600 = .error .unusedFunction ∧ decode 0x3701 = .error .immediateNotZero ∧
    decode 0x3800 = .error .unusedFunction ∧ decode 0x4000 = .error .reservedFamily ∧
    decode 0xFFFF = .error .reservedFamily := by decide +kernel
theorem test_table_word : decodeTableWord 16 0x3409 = some (.crOsr 9) ∧ decodeTableWord 16 0x1004 = none := by
  decide +kernel
/-- The notation of R98, with its own examples. -/
theorem test_assembler_notation :
    parseLine "GY.BEGIN 2" = some (.gyBegin 2) ∧ parseLine "CR.OSR 0x07" = some (.crOsr 7) ∧
    parseLine "BA.PRES -- Pa" = some .baPres ∧ parseLine "GY.BEGIN 4" = none ∧
    parseLine "ba.pres" = none := by decide +kernel

/-! ## Reset (R41, R270) -/

theorem test_reset : State.reset.gyst = .uninitialized ∧ State.reset.sbcnt = 0 ∧ State.reset.flt = 0 ∧
    State.reset.crv = none ∧ State.reset.res0 = none := by decide

/-! ## Family HT (spec/95 sections 1, 2) -/

theorem test_ht_initchk_match :
    gives (exec .htInitchk (withSample [0x3A])) (fun t => t.resb == some true && t.resbv) = true := by decide +kernel
theorem test_ht_initchk_count_two :
    gives (exec .htInitchk (withSample [0x3A, 0x3A])) (fun t => t.flt == 0b0001 && !t.resbv) = true := by
  decide +kernel
theorem test_ht_temp_sample :
    gives (exec .htTemp (withSample [0x66, 0x4C, 0xFF])) (fun t => t.res0 == some (.b32 0x41BAF00E) &&
      t.resv == 0b001) = true := by decide +kernel
theorem test_ht_temp_top_is_unsigned :
    gives (exec .htTemp (withSample [0xFF, 0xFF, 0x00])) (fun t => t.res0 == some (.b32 0x4300DE09)) = true := by
  decide +kernel
theorem test_ht_hum_sample :
    gives (exec .htHum (withSample [0x7C, 0x80, 0xFF])) (fun t => t.res0 == some (.b32 0x425B2A00)) = true := by
  decide +kernel
theorem test_ht_hum_not_clamped :
    gives (exec .htHum (withSample [0xFF, 0xFF, 0x00])) (fun t => t.res0 == some (.b32 0x42EDFF06)) = true := by
  decide +kernel

/-! ## Family GY (spec/95 sections 1, 3) -/

theorem test_gy_begin_match :
    gives (exec (.gyBegin 2) (withSample [0xD7])) (fun t => t.range == some 2 && t.gyst == .active &&
      t.resb == some true) = true := by decide +kernel
theorem test_gy_begin_mismatch_keeps :
    gives (exec (.gyBegin 3) (withSample [0x00] (activeGyro 2))) (fun t => t.range == some 2 &&
      t.gyst == .active && t.resb == some false && t.resbv) = true := by decide +kernel
theorem test_gy_event_full_sample :
    gives (exec .gyEvent (withSample [0x00, 0x01, 0x00, 0xFF, 0xFF, 0x80, 0x00] (activeGyro 0)))
      (fun t => t.res0 == some (.b32 0x3D0EFA35) && t.res1 == some (.b32 0xB90EFA35) &&
        t.res2 == some (.b32 0xC08EFA35) && t.rawx == some 256 && t.evts == some 0x0000BEEF) = true := by
  decide +kernel
theorem test_gy_event_notcfg_outranks_short :
    gives (exec .gyEvent (withSample [1, 2, 3, 4, 5, 6])) (fun t => t.flt == 0b0100 && t.resv == 0) = true := by
  decide +kernel
theorem test_gy_meta_range_three :
    gives (exec .gyMeta (activeGyro 3)) (fun t => t.res0 == some (.b32 0xC20BA058) &&
      t.res1 == some (.b32 0x420BA058) && t.res2 == some (.b32 0)) = true := by decide +kernel
theorem test_gy_meta_before_begin :
    gives (exec .gyMeta base) (fun t => t.flt == 0b0100) = true := by decide +kernel

/-! ## Family BA (spec/95 sections 1, 4, 6a) -/

theorem test_ba_alt_low_nibble :
    gives (exec .baAlt (withSample [0x01, 0x2C, 0x08])) (fun t => t.res0 == some (.b32 0x43964000)) = true := by
  decide +kernel
theorem test_ba_alt_high_nibble :
    gives (exec .baAlt (withSample [0x01, 0x2C, 0x08] { base with cfg := { Cfg.suggested with altFracHigh := true } }))
      (fun t => t.res0 == some (.b32 0x43960000)) = true := by decide +kernel
theorem test_ba_pres_example :
    gives (exec .baPres (withSample [0x01, 0x86, 0x50])) (fun t => t.res0 == some (.b32 0x44C32800)) = true := by
  decide +kernel
theorem test_ba_pres_top :
    gives (exec .baPres (withSample [0xFF, 0xFF, 0xFF])) (fun t => t.res0 == some (.b32 0x487FFFF0)) = true := by
  decide +kernel
theorem test_ba_temp_negative_low_nibble_ignored :
    gives (exec .baTemp (withSample [0xE7, 0x4F])) (fun t => t.res0 == some (.b32 0xC1C60000)) = true := by
  decide +kernel
theorem test_ba_temp_minimum :
    gives (exec .baTemp (withSample [0x80, 0x00])) (fun t => t.res0 == some (.b32 0xC3000000)) = true := by
  decide +kernel
theorem test_ba_tmo :
    gives (exec .baTmo base) (fun t => t.res0 == some (.b32 0xC479C000) && t.tmo && t.resv == 0b001) = true := by
  decide +kernel
theorem test_ba_altft_of_sentinel :
    gives (exec .baAltft (withRes0 0xC479C000)) (fun t => t.res0 == some (.b32 0xC54CD8F2)) = true := by
  decide +kernel
theorem test_ba_altft_overflows_to_infinity :
    gives (exec .baAltft (withRes0 0x7F2A927E)) (fun t => t.res0 == some (.b32 0x7F800000) && t.flt == 0) = true := by
  decide +kernel
theorem test_ba_tempf_example :
    gives (exec .baTempf (withRes0 0xC1C60000)) (fun t => t.res0 == some (.b32 0xC148CCCD)) = true := by
  decide +kernel
theorem test_ba_tempf_without_value :
    gives (exec .baTempf base) (fun t => t.flt == 0b1000 && t.res0 == none) = true := by decide +kernel
/-- Spec/95 section 6a: the subnormal grid, a tie to even, and the kept sign of zero. -/
theorem test_fl_tiny : b32OfRat (1 / 2 ^ 149) = 1 ∧ b32OfRat (1 / 2 ^ 150) = 0 ∧ b32OfRat (3 / 2 ^ 151) = 1 ∧
    b32OfRat (-1 / 2 ^ 150) = 0x80000000 := by decide +kernel

/-! ## Family CR (spec/95 section 5) -/

theorem test_cr_modebar : gives (exec .crModebar (withCrv 0xB9)) (fun t => t.crv == some 0x39) = true := by
  decide +kernel
theorem test_cr_modealt : gives (exec .crModealt (withCrv 0x39)) (fun t => t.crv == some 0xB9) = true := by
  decide +kernel
theorem test_cr_standby : gives (exec .crStandby (withCrv 0xB9)) (fun t => t.crv == some 0xB8) = true := by
  decide +kernel
theorem test_cr_active : gives (exec .crActive (withCrv 0xB8)) (fun t => t.crv == some 0xB9) = true := by
  decide +kernel
theorem test_cr_osr_inserts : gives (exec (.crOsr 5) (withCrv 0x81)) (fun t => t.crv == some 0xA9) = true := by
  decide +kernel
theorem test_cr_osr_clamps : gives (exec (.crOsr 8) (withCrv 0x00)) (fun t => t.crv == some 0x38) = true := by
  decide +kernel
theorem test_cr_ostclr : gives (exec .crOstclr (withCrv 0xBB)) (fun t => t.crv == some 0xB9) = true := by
  decide +kernel
theorem test_cr_ostset : gives (exec .crOstset (withCrv 0xB9)) (fun t => t.crv == some 0xBB) = true := by
  decide +kernel
theorem test_cr_evflags : gives (exec .crEvflags (withCrv 0xF8)) (fun t => t.crv == some 0xFF) = true := by
  decide +kernel
theorem test_cr_novalue : gives (exec .crEvflags base) (fun t => t.flt == 0b1000 && t.crv == none) = true := by
  decide +kernel

/-! ## ACQ, one step each -/

/-- R62 with k < n: the cells that got no byte hold `novalue` (spec/95 P6). -/
theorem test_burst_short : gives (step { base with acq := [.fill 6], env := answers [] [0, 1, 2, 3, 4, 0x55] [] [] })
    (fun t => t.sbcnt == 6 && t.sb[5] == some 0x55 && t.sb[6] == none) = true := by decide +kernel
/-- R66, R201: a status read that delivers nothing stops `readAltitude` with `RESV` clear. -/
theorem test_short_status_read :
    gives (step { withRes0 0 with
        acq := [.pollRead 0x02, .busRead .ba (some 1) 3 false, cmd .baAlt, .join, .ret .number]
        env := answers [0] [] [] [] })
      (fun t => t.flt == 0b0001 && t.resv == 0 && t.acq == [] && t.ret == some .nothing) = true := by decide +kernel
/-- R213: the 600th status read that is not ready leads to BA.TMO (spec/95 P4). -/
theorem test_poll_last_read :
    gives (step { base with
        acq := [.pollRead 0x02, .busRead .ba (some 1) 3 false, .join, .ret .number], pollcnt := 599
        env := answers [1] [0x00] [] [] })
      (fun t => t.pollcnt == 600 && t.acq == [.dp 0x2300, .join, .ret .number]) = true := by decide +kernel
/-- R34: the low 32 bits of the tick count (spec/95 P2). -/
theorem test_ticks_low_bits :
    gives (step { base with acq := [.latchTicks], env := answers [] [] [] [0x100012345] })
      (fun t => t.ticks == some 0x00012345) = true := by decide +kernel

/-! ## Witnesses: for each statement with hypotheses, and for each clause, a state and operands that meet them -/

/-! ### Encoding and steps -/

theorem test_witness_DecodeOfEncode : (Instr.gyBegin 3).WellFormed ∧ (Instr.crOsr 255).WellFormed ∧
    Instr.htTemp.WellFormed := by decide
theorem test_witness_EncodeOfDecodedWord : decode 0x34FF = .ok (.crOsr 255) ∧ decode 0x1003 = .ok (.gyBegin 3) := by
  decide +kernel
theorem test_witness_UnlistedWords : decode 0x1003 = .ok (.gyBegin 3) ∧
    (∀ row ∈ opcodeTable, row.covers 0x1004 = false) ∧ (∀ row ∈ opcodeTable, row.covers 0xFFFF = false) := by
  decide +kernel
theorem test_witness_HostCommandStep : decode 0x2300 = .ok .baTmo ∧ base.acq = [] ∧
    { base with host := [.command 0x2300] }.host = .command 0x2300 :: [] := by decide +kernel
/-- The two clauses: no fault (BA.TMO), and the fault of GY.EVENT before `begin`. -/
theorem test_witness_SequenceCommand :
    decode 0x2300 = .ok .baTmo ∧ raisedBy .baTmo base = none ∧
    decode 0x1100 = .ok .gyEvent ∧ raisedBy .gyEvent base = some .notcfg ∧
    { base with acq := [.dp 0x2300] }.acq = .dp 0x2300 :: [] ∧
    { base with acq := [.dp 0x1100] }.acq = .dp 0x1100 :: [] := by decide +kernel
theorem test_witness_IdleMachine : base.acq = [] ∧ base.host = [] ∧
    (starting .readTemp Env.start).acq = [] ∧ (starting .readTemp Env.start).host = .start .readTemp :: [] := by
  decide
theorem test_witness_RunningSequence : { base with acq := [.join] }.acq ≠ [] ∧
    gives (step { base with acq := [.join], host := [.reset] }) (fun t => t.host == [.reset]) = true := by
  decide +kernel
/-- The host's read of `RAWX` after reset, and the three actions of ACQ that read `novalue`. -/
theorem test_witness_StepStops :
    step { base with host := [.read .rawx] } = .fault (.hostReadNovalue .rawx) ∧
    step { base with acq := [.busWriteCrv .ba 0x26] } = .fault .acqReadNovalue ∧
    step { base with acq := [.exitUnlessResb] } = .fault .acqReadNovalue ∧
    step { base with acq := [.ret .event] } = .fault .acqReadNovalue := ⟨rfl, rfl, rfl, rfl⟩
theorem test_witness_ConfigurationIsNeverWritten : ∃ t, step { base with host := [.command 0x2300] } = .next t :=
  ⟨_, rfl⟩
theorem test_witness_ResetPutsEveryRegister : (State.reset = State.reset ∨ State.reset = resetEvent base) ∧
    { base with host := [.reset] }.host = .reset :: [] ∧ base.acq = [] := ⟨.inl rfl, rfl, rfl⟩
theorem test_witness_OnlyReset :
    (∃ t, step { activeGyro 2 with flt := 0b1111, host := [.command 0x1200] } = .next t) ∧
    (activeGyro 2).gyst = .active ∧
    ¬ State.resetNext { activeGyro 2 with flt := 0b1111, host := [.command 0x1200] } :=
  ⟨⟨_, rfl⟩, rfl, by rintro ⟨-, rest, h⟩; cases h⟩

/-! ### Results -/

theorem test_witness_HtInitchk : (withSample [0x3A]).sbcnt.toNat = 1 ∧ (withSample [0x3A]).sb[0] = some 0x3A ∧
    base.sbcnt.toNat ≠ 1 ∧ (withSample [0x3A, 0x3A]).sbcnt.toNat ≠ 1 := by decide +kernel
theorem test_witness_HtTemp_HtHum : (withSample [0xFF, 0xFF, 0]).sbcnt.toNat = 3 ∧
    (withSample [0xFF, 0xFF, 0]).sb[0] = some 0xFF ∧ (withSample [0xFF, 0xFF, 0]).sb[1] = some 0xFF ∧
    (withSample [1, 2]).sbcnt.toNat ≠ 3 ∧ (withSample [1, 2, 3, 4]).sbcnt.toNat ≠ 3 := by decide +kernel
theorem test_witness_GyBegin : 3 < 4 ∧ (withSample [0xD7]).sbcnt.toNat = 1 ∧
    (withSample [0xD7]).sb[0] = some (withSample [0xD7]).cfg.gyIdExpected ∧
    (withSample [0xD6]).sbcnt.toNat = 1 ∧ (withSample [0xD6]).sb[0] = some 0xD6 ∧
    (0xD6 : Byte) ≠ (withSample [0xD6]).cfg.gyIdExpected ∧ base.sbcnt.toNat ≠ 1 := by decide +kernel
/-- The clauses of GY.EVENT: a full sample in range 3, before `begin`, a burst of 6, no tick latched. -/
theorem test_witness_GyEvent :
    (let s := withSample [0, 0x80, 0, 0xFF, 0xFF, 0x7F, 0xFF] (activeGyro 3)
     s.gyst = .active ∧ s.sbcnt.toNat = 7 ∧ s.ticks = some 0xBEEF ∧ s.range = some 3 ∧ s.sb[1] = some 0x80 ∧
      s.sb[2] = some 0 ∧ s.sb[3] = some 0xFF ∧ s.sb[4] = some 0xFF ∧ s.sb[5] = some 0x7F ∧ s.sb[6] = some 0xFF) ∧
    base.gyst = .uninitialized ∧
    (withSample [0, 1, 2, 3, 4, 5] (activeGyro 0)).sbcnt.toNat ≠ 7 ∧ (activeGyro 0).gyst = .active ∧
    (let s := withSample [0, 1, 2, 3, 4, 5, 6] { activeGyro 0 with ticks := none }
     s.gyst = .active ∧ s.sbcnt.toNat = 7 ∧ s.ticks = none) := by decide +kernel
theorem test_witness_GyMeta : (activeGyro 3).gyst = .active ∧ (activeGyro 3).range = some 3 ∧
    (2000 * (17453293 / 1000000000) : Rat) = (activeGyro 3).cfg.rangeDps[(3 : BitVec 2).toNat] *
      (activeGyro 3).cfg.deg2rad ∧
    { activeGyro 3 with host := [.start .getSensorMetadata] }.host = .start .getSensorMetadata :: [] ∧
    (activeGyro 3).acq = [] ∧ base.gyst = .uninitialized := by decide +kernel
theorem test_witness_BaAlt_BaPres : (withSample [0xFF, 0xFF, 0xFF]).sbcnt.toNat = 3 ∧
    (withSample [0xFF, 0xFF, 0xFF]).sb[0] = some 0xFF ∧ (withSample [0xFF, 0xFF, 0xFF]).sb[1] = some 0xFF ∧
    (withSample [0xFF, 0xFF, 0xFF]).sb[2] = some 0xFF ∧ (withSample [0xFF, 0xFF]).sbcnt.toNat ≠ 3 := by
  decide +kernel
theorem test_witness_BaTemp : (withSample [0x80, 0x00]).sbcnt.toNat = 2 ∧ (withSample [0x80, 0x00]).sb[0] = some 0x80 ∧
    (withSample [0x80, 0x00]).sb[1] = some 0x00 ∧ (withSample [1, 2, 3]).sbcnt.toNat ≠ 2 := by decide +kernel
/-- The clauses of the two conversions: a finite number, an infinity, no value. -/
theorem test_witness_BaAltft_BaTempf :
    (withRes0 0xC479C000).resv.getLsbD 0 = true ∧ (withRes0 0xC479C000).res0 = some (.b32 0xC479C000) ∧
    isInfinite (.b32 0xC479C000) = false ∧ isInfinite (.b32 0x7F7FFFFF) = false ∧
    (withRes0 0x7F800000).resv.getLsbD 0 = true ∧ (withRes0 0x7F800000).res0 = some (.b32 0x7F800000) ∧
    isInfinite (.b32 0x7F800000) = true ∧ base.resv.getLsbD 0 = false := by decide +kernel
theorem test_witness_CrBitCommands : (withCrv 0xB9).crv = some 0xB9 ∧ base.crv = none ∧
    (Instr.crOstset, base.cfg.baOstBit, true) ∈ [(Instr.crModebar, base.cfg.baAltBit, false),
      (.crModealt, base.cfg.baAltBit, true), (.crStandby, base.cfg.baSbybBit, false),
      (.crActive, base.cfg.baSbybBit, true), (.crOstclr, base.cfg.baOstBit, false),
      (.crOstset, base.cfg.baOstBit, true)] := by decide +kernel
theorem test_witness_CrOsr_CrEvflags : 255 < 256 ∧ (withCrv 0xFF).crv = some 0xFF ∧ base.crv = none := by decide
theorem test_witness_CrIdempotent : Instr.crModealt.family = .cr ∧ ∃ t, exec .crModealt (withCrv 0x39) = .next t :=
  ⟨rfl, _, rfl⟩
theorem test_witness_CrCommute : base.cfg.lawful = true ∧ ctrlField .crModealt = some 0 ∧
    ctrlField (.crOsr 7) = some 3 ∧ (0 : Nat) ≠ 3 := by decide +kernel

/-! ### Faults and frames -/

/-- Every kind of destination: `RESV`, `RESV[0]`, `RESBV`, and none. -/
theorem test_witness_RaisedFault : raisedBy .htTemp base = some .short ∧ raisedBy .gyMeta base = some .notcfg ∧
    raisedBy .baAltft base = some .novalue ∧ raisedBy (.gyBegin 0) base = some .short ∧
    raisedBy .crActive base = some .novalue := by decide +kernel
theorem test_witness_Short : expectedCount .gyEvent = some 7 ∧ (activeGyro 0).gyst = .active ∧
    expectedCount .baTemp = some 2 ∧ expectedCount .baTmo = none := by decide
/-- The registers' invariant, with a full sample, an Active gyroscope and a result. -/
theorem test_witness_RegInv :
    State.RegInv (withSample [0, 1, 2, 3, 4, 5, 6] { activeGyro 3 with res0 := some (.b32 0), resv := 0b001 }) := by
  refine ⟨fun i => ?_, by unfold State.gyroInv; decide +kernel, by decide +kernel, by decide +kernel,
    by decide +kernel, by decide +kernel, ?_, ?_, ?_⟩
  · revert i; decide +kernel
  · intro b h
    cases h
    decide +kernel
  · intro b h
    cases h
  · intro b h
    cases h
theorem test_witness_CommandsWriteOnly :
    ∃ t, exec .gyMeta (activeGyro 1) = .next t := ⟨_, rfl⟩
theorem test_witness_OnlyBursts : ∃ t, step { base with acq := [.pollInit] } = .next t ∧
    ¬ State.resetNext { base with acq := [.pollInit] } ∧
    ∀ k rest, { base with acq := [.pollInit] }.acq ≠ Act.fill k :: rest :=
  ⟨_, rfl, (by rintro ⟨h, -⟩; cases h), (by intro k rest h; cases h)⟩
theorem test_witness_RawAxes : ∃ t, step { base with host := [.read .flt] } = .next t ∧
    ¬ State.rawReadNext { base with host := [.read .flt] } :=
  ⟨_, rfl, by rintro ⟨-, rest, h | h | h⟩ <;> cases h⟩
/-- A command that writes `TMO`, one that writes `RESB`, one that writes neither, and one that faults. -/
theorem test_witness_NoCommandDepends :
    (∃ t, exec .baTmo base = .next t) ∧ writesTmo .baTmo ∧ raisedBy .baTmo base = none ∧
    writesResb (.gyBegin 3) ∧ raisedBy (.gyBegin 3) (withSample [0xD7]) = none ∧
    ¬ writesTmo .crActive ∧ ¬ writesResb .crActive ∧ raisedBy .crActive base = some .novalue :=
  ⟨⟨_, rfl⟩, by simp [writesTmo], rfl, .inr ⟨3, rfl⟩, by decide +kernel, by simp [writesTmo], by simp [writesResb], rfl⟩
/-- Bytes that agree in the nibble a layout reads (the low one for the default altitude). -/
theorem test_witness_UncoveredBits :
    (∃ t, exec .baPres (withSample [0x01, 0x86, 0x50]) = .next t) ∧ (withSample [0x01, 0x86, 0x50]).sb[2] = some 0x50 ∧
    (0x50 : Byte).toNat / 16 = (0x5F : Byte).toNat / 16 ∧
    (∃ t, exec .baTemp (withSample [0xE7, 0x40]) = .next t) ∧ (withSample [0xE7, 0x40]).sb[1] = some 0x40 ∧
    (0x40 : Byte).toNat / 16 = (0x4F : Byte).toNat / 16 ∧
    (∃ t, exec .baAlt (withSample [0x01, 0x2C, 0x08]) = .next t) ∧
    (withSample [0x01, 0x2C, 0x08]).sb[2] = some 0x08 ∧ (withSample [0x01, 0x2C, 0x08]).cfg.altFracHigh = false ∧
    (0x08 : Byte).toNat % 16 = (0x88 : Byte).toNat % 16 ∧ (0x80 : Byte).toNat / 16 = (0x8F : Byte).toNat / 16 ∧
    (∃ t, exec .htTemp (withSample [1, 2, 3]) = .next t) ∧
    (∃ t, exec .gyEvent (withSample [0, 1, 2, 3, 4, 5, 6] (activeGyro 0)) = .next t) :=
  ⟨⟨_, rfl⟩, by decide +kernel, by decide, ⟨_, rfl⟩, by decide +kernel, by decide, ⟨_, rfl⟩, by decide +kernel,
    rfl, by decide, by decide, ⟨_, rfl⟩, ⟨_, rfl⟩⟩

/-! ### Binary32 -/

theorem test_witness_Binary32Exact : (-1048575 : Int).natAbs < 2 ^ 20 ∧ 1048575 < 2 ^ 20 := by decide
theorem test_witness_Binary32Monotone : (1 / 2 : Rat) ≤ 1 ∧ b32Finite (b32OfRat (1 / 2)) = true ∧
    b32Finite (b32OfRat 1) = true ∧ ((2 : Rat) ^ 128 ≤ 2 ^ 129) ∧ b32OfRat (2 ^ 128) = 0x7F800000 ∧
    ((-2 : Rat) ^ 129 ≤ -1) ∧ b32OfRat ((-2) ^ 129) = 0xFF800000 := by decide +kernel
/-- A tie: `2^-150` lies halfway between 0 and the smallest subnormal. -/
theorem test_witness_Binary32Nearest : b32Finite (b32OfRat (1 / 2 ^ 150)) = true ∧ b32Finite (1 : BitVec 32) = true ∧
    b32Val (b32OfRat (1 / 2 ^ 150)) = 0 ∧ b32Val 1 = 1 / 2 ^ 149 := by decide +kernel
theorem test_witness_Binary32Sign : (-1 / 2 ^ 150 : Rat) ≠ 0 ∧ (-1 / 2 ^ 150 : Rat) < 0 ∧
    (2 : Rat) ^ 128 - 2 ^ 103 ≤ |(-2) ^ 128| := by decide +kernel

/-! ### Bus access and sequences -/

/-- A burst shorter than asked for, with a wait (HT), and one of 7 bytes without. -/
theorem test_witness_BusRead :
    (let s := { base with
        acq := [.busRead .ht none 3 true, .join], env := answers [2] [0x7C, 0x80] [some 5] [] }
     s.acq = .busRead .ht none 3 true :: [.join] ∧ s.env.counts = 2 :: [] ∧ s.env.bytes = [0x7C, 0x80] ++ [] ∧
      [(0x7C : Byte), 0x80].length = min 2 7 ∧ s.env.waits = some 5 :: []) ∧
    (let s := { base with
        acq := [.busRead .gy (some 0x80) 7 false], env := answers [7] [0, 1, 2, 3, 4, 5, 6] [some 0] [] }
     s.acq = .busRead .gy (some 0x80) 7 false :: [] ∧ s.env.counts = 7 :: [] ∧
      [(0 : Byte), 1, 2, 3, 4, 5, 6].length = min 7 7 ∧ s.env.waits = some 0 :: []) := by decide +kernel
theorem test_witness_WaitForData :
    (let s := { base with acq := [.waitAvail], env := answers [] [] [none] [] }
     s.acq = .waitAvail :: [] ∧ s.env.waits = none :: [] ∧ (drawAvail s.env).1 = false) ∧
    (drawAvail (answers [] [] [some 0] [])).1 = true := by decide +kernel
theorem test_witness_ShortOneByteRead :
    (let s := { withRes0 0 with acq := [.pollRead 0x04, .join, .ret .number], env := answers [0] [] [] [] }
     Act.pollRead 0x04 ∈ [Act.loadCrv .ba 0x26, .preCheck 0x04 false, .pollRead 0x04] ∧
      s.acq = .pollRead 0x04 :: ([.join] ++ [.ret .number]) ∧ s.env.counts = 0 :: [] ∧ (0 : Nat) ≠ 1) ∧
    (∀ r, Act.ret r ∉ [Act.join]) ∧
    (let s := { withRes0 0 with acq := textSetter 0x26 .crActive, env := answers [0] [] [] [] }
     s.acq = .loadCrv .ba 0x26 :: ([.dp 0x3300, .busWriteCrv .ba 0x26] ++ [.ret .unit]) ∧ s.env.counts = 0 :: []) ∧
    (∀ r, Act.ret r ∉ [Act.dp 0x3300, .busWriteCrv .ba 0x26]) :=
  ⟨by decide +kernel, by simp, by decide +kernel, by simp⟩
theorem test_witness_Setters :
    (let s := starting (.setOversampleRate 255) (answers [1] [0xC7] [] [])
     (DriverCall.setOversampleRate 255, s.cfg.baCtrlReg1, Instr.crOsr 255) ∈ setters s.cfg 255 ∧ s.acq = [] ∧
      s.host = .start (.setOversampleRate 255) :: [] ∧ s.env.counts = 1 :: [] ∧ s.env.bytes = 0xC7 :: []) := by
  decide +kernel
theorem test_witness_Toggle :
    (let s := starting .toggleOneShot (answers [1, 1] [0x3B, 0x39] [] [])
     s.acq = [] ∧ s.host = .start .toggleOneShot :: [] ∧ s.env.counts = 1 :: 1 :: [] ∧
      s.env.bytes = 0x3B :: 0x39 :: []) := by decide +kernel
/-- The two cases: not ready and effective, and the preserved defect. -/
theorem test_witness_PreCheck :
    (let s := { base with acq := [.preCheck 0x02 true], env := answers [1] [0x00] [] [] }
     s.acq = .preCheck 0x02 true :: [] ∧ s.env.counts = 1 :: [] ∧ s.env.bytes = 0x00 :: []) ∧
    (let s := { base with acq := [.preCheck 0x04 false], env := answers [1] [0x00] [] [] }
     s.acq = .preCheck 0x04 false :: [] ∧ s.env.counts = 1 :: [] ∧ s.env.bytes = 0x00 :: []) := by decide +kernel
theorem test_witness_PollEnds :
    { base with acq := [.pollInit, .pollRead 0x04, .join] }.acq = .pollInit :: .pollRead 0x04 :: [.join] := rfl
/-- 600 status reads with every bit clear, for each of the three reads. -/
theorem test_witness_TimedOut :
    (∀ st ∈ List.replicate 600 (0 : Byte), st &&& 0x04 = 0) ∧ (List.replicate 600 (0 : Byte)).length = 600 ∧
    (let s := starting .readPressure (answers (List.replicate (1 + 600) 1) ([0] ++ List.replicate 600 0) [] [])
     s.acq = [] ∧ s.host = .start .readPressure :: [] ∧ s.cfg.presPrecheckEffective = false) ∧
    (let s := starting .readAltitude (answers (List.replicate (2 + 600) 1) ([0xB9, 0xB9] ++ List.replicate 600 0) [] [])
     s.acq = [] ∧ s.host = .start .readAltitude :: [] ∧ [(0xB9 : Byte), 0xB9].length = 2) ∧
    (let s := starting .readTemp (answers (List.replicate (3 + 600) 1) ([0, 0x39, 0x39] ++ List.replicate 600 0) [] [])
     s.acq = [] ∧ s.host = .start .readTemp :: [] ∧ s.cfg.tempPrecheckEffective = true ∧
      [(0 : Byte), 0x39, 0x39].length = 3 ∧ (0 : Byte) &&& s.cfg.baRdyTemp = 0) := by
  refine ⟨fun st h => ?_, List.length_replicate, ⟨rfl, rfl, rfl⟩, ⟨rfl, rfl, rfl⟩, rfl, rfl, rfl, rfl, by decide⟩
  rw [List.eq_of_mem_replicate h]
  decide
/-- The clauses: `readAltitude` and `readAltitudeFt`, and the others with a pre-check that does not trigger, with one
that does, and with the preserved defect. -/
theorem test_witness_BarometricReads :
    (let s := starting .readAltitudeFt (answers [1, 1, 1, 3] [0x39, 0x3B, 0x02, 0x01, 0x2C, 0x08] [] [])
     s.acq = [] ∧ s.host = .start .readAltitudeFt :: [] ∧ (0x02 : Byte) &&& s.cfg.baRdyAlt ≠ 0 ∧
      s.env.counts = 1 :: 1 :: 1 :: 3 :: [] ∧ s.env.bytes = 0x39 :: 0x3B :: 0x02 :: 0x01 :: 0x2C :: 0x08 :: []) ∧
    (let s := starting .readTempF (answers [1, 1, 1, 1, 2, 1, 1] [0x00, 0x39, 0x3B, 0x02, 0xE7, 0x40, 0x3B, 0x39] [] [])
     (preCheckEvents s.cfg s.cfg.baRdyTemp s.cfg.tempPrecheckEffective [0x00, 0x39, 0x3B]).isSome ∧
      (0x02 : Byte) &&& s.cfg.baRdyTemp ≠ 0 ∧
      s.env.counts = List.replicate [(0x00 : Byte), 0x39, 0x3B].length 1 ++ 1 :: [(0xE7 : Byte), 0x40].length :: 1 :: 1 :: [] ∧
      s.env.bytes = [0x00, 0x39, 0x3B] ++ 0x02 :: [0xE7, 0x40] ++ 0x3B :: 0x39 :: []) ∧
    (preCheckEvents base.cfg base.cfg.baRdyTemp true [0x02]).isSome ∧
    (preCheckEvents base.cfg 0x04 base.cfg.presPrecheckEffective [0x00]).isSome ∧
    base.cfg.presPrecheckEffective = false := by decide +kernel
theorem test_witness_HtSequences :
    (let s := starting .initHt (answers [1] [0x3A] [some 0] [])
     s.acq = [] ∧ s.env.waits = some 0 :: [] ∧ s.host = .start .initHt :: [] ∧ s.env.counts = 1 :: [] ∧
      s.env.bytes = 0x3A :: []) ∧
    (let s := starting .readHumidity (answers [3] [0x7C, 0x80, 0xFF] [some 2] [])
     s.acq = [] ∧ s.env.waits = some 2 :: [] ∧ s.host = .start .readHumidity :: [] ∧ s.env.counts = 3 :: [] ∧
      s.env.bytes = 0x7C :: 0x80 :: 0xFF :: []) := by decide +kernel
/-- The two clauses: a match and a mismatch of the identity. -/
theorem test_witness_Begin :
    (let s := starting (.beginGy 3) (answers [1] [0xD7] [] [])
     s.acq = [] ∧ s.host = .start (.beginGy 3) :: [] ∧ s.env.counts = 1 :: [] ∧ s.env.bytes = 0xD7 :: [] ∧
      0xD7 = s.cfg.gyIdExpected ∧ 0xC4 ≠ s.cfg.gyIdExpected) := by decide +kernel
/-- The clauses: a full burst, a short one, and before `begin`. -/
theorem test_witness_GetEvent :
    (let s := { activeGyro 3 with
        host := [.start .getEvent], env := answers [7] [0x0F, 0x7F, 0xFF, 0x80, 0, 0, 0] [] [0x100012345] }
     s.acq = [] ∧ s.host = .start .getEvent :: [] ∧ s.env.ticks = 0x100012345 :: [] ∧ s.env.counts = 7 :: [] ∧
      s.env.bytes = [0x0F, 0x7F, 0xFF, 0x80, 0, 0, 0] ++ [] ∧
      [(0x0F : Byte), 0x7F, 0xFF, 0x80, 0, 0, 0].length = min 7 7 ∧ s.gyst = .active ∧ s.range = some 3) ∧
    (let s := { activeGyro 1 with
        host := [.start .getEvent], env := answers [6] [0, 0x11, 0x22, 0x33, 0x44, 0x55] [] [0] }
     s.env.counts = 6 :: [] ∧ [(0 : Byte), 0x11, 0x22, 0x33, 0x44, 0x55].length = min 6 7 ∧
      s.gyst = .active ∧ 6 < 7) ∧
    (starting .getEvent (answers [7] [0, 1, 2, 3, 4, 5, 6] [] [0])).gyst = .uninitialized := by decide +kernel

/-! ### The host's reads, and the invariants -/

/-- Rows of the table with a value and with none, at both ends of the sample buffer and for a gated result. -/
theorem test_witness_HostRead :
    base.acq = [] ∧ { base with host := [.read .crv] }.host = .read .crv :: [] ∧
    (.crv, some (.bits 0xFF)) ∈ registerTable (withCrv 0xFF) ∧ (.crv, none) ∈ registerTable base ∧
    (.rawy, some (.signed (-32768))) ∈ registerTable { base with rawy := some 0x8000 } ∧
    (.sb 0, some (.bits 7)) ∈ registerTable (withSample [7]) ∧ (.sb 6, none) ∈ registerTable (withSample [7]) ∧
    (.res0, some (.number (.b32 0))) ∈ registerTable (withRes0 0) ∧
    (.res0, none) ∈ registerTable { withRes0 0 with resv := 0 } ∧ (.flt, some (.bits 0)) ∈ registerTable base := by
  decide +kernel
theorem test_witness_KeepsRegInv : State.RegInv base ∧ ∃ t, step { base with host := [.command 0x2300] } = .next t := by
  refine ⟨⟨fun i => ?_, by unfold State.gyroInv; decide +kernel, by decide +kernel, by decide +kernel,
    by decide +kernel, by decide +kernel, fun b h => ?_, fun b h => ?_, fun b h => ?_⟩, _, rfl⟩
  · revert i; decide +kernel
  all_goals cases h
/-- The boundary: 599 status reads made, inside the loop. -/
theorem test_witness_KeepsPollBound :
    State.PollInv { base with acq := [.pollRead 0x04, .join], pollcnt := 599 } ∧
    ∃ t, step { base with acq := [.pollRead 0x04, .join], pollcnt := 599, env := answers [1] [0] [] [] } = .next t :=
  ⟨⟨by decide, .inr ⟨by decide, 0x04, [.join], rfl, .inl rfl⟩⟩, _, rfl⟩

end Sys2Proof.Tests
end

section
/-! The binary32 rounding: what `magBits` and `b32OfRat` give, that they are monotone, and where they are exact
(spec/00_scope.md R14, spec/30_encoding.md R100). -/

namespace Sys2Proof.Machine

/-! ## Rounding a quotient to an integer -/

theorem roundHalfEven_one (k : Nat) : roundHalfEven k 1 = k := by
  simp [roundHalfEven, Nat.mod_one]

theorem roundHalfEven_le {n m k : Nat} (hm : 0 < m) (h : (n : Rat) / m ≤ k) : roundHalfEven n m ≤ k := by
  rw [← roundHalfEven_one k]
  exact roundHalfEven_mono hm one_pos (by simpa using h)

theorem le_roundHalfEven {n m k : Nat} (hm : 0 < m) (h : (k : Rat) ≤ (n : Rat) / m) : k ≤ roundHalfEven n m := by
  rw [← roundHalfEven_one k]
  exact roundHalfEven_mono one_pos hm (by simpa using h)

/-! ## The significand on its grid -/

section Grid
variable {a d : Nat}

/-- The quotient `significand` rounds is `a / d` in units of its last place. -/
theorem significand_quotient (a d : Nat) :
    ((a * 2 ^ (23 - gridExp a d).toNat : Nat) : Rat) / ((d * 2 ^ (gridExp a d - 23).toNat : Nat) : Rat) =
      (a : Rat) / d * 2 ^ (23 - gridExp a d) := by
  rw [div_mul_eq_mul_div, ← scaled_eq, neg_sub, div_div]
  push_cast
  rw [mul_comm (d : Rat)]

theorem le_significand {k : Nat} (hd : 0 < d) (h : (k : Rat) ≤ (a : Rat) / d * 2 ^ (23 - gridExp a d)) :
    k ≤ significand a d :=
  le_roundHalfEven (by positivity) (by rwa [significand_quotient])

theorem significand_le {k : Nat} (hd : 0 < d) (h : (a : Rat) / d * 2 ^ (23 - gridExp a d) ≤ k) :
    significand a d ≤ k :=
  roundHalfEven_le (by positivity) (by rwa [significand_quotient])

/-- A significand may round up to the next power of two, and no further. -/
theorem significand_le_carry (ha : 0 < a) (hd : 0 < d) : significand a d ≤ 16777216 := by
  refine significand_le hd ?_
  have hx : (a : Rat) / d ≤ 2 ^ (gridExp a d + 1) :=
    (ilog2_spec ha hd).2.le.trans (zpow_le_zpow_right₀ one_le_two (by unfold gridExp; omega))
  calc (a : Rat) / d * 2 ^ (23 - gridExp a d)
      ≤ 2 ^ (gridExp a d + 1) * 2 ^ (23 - gridExp a d) := by gcongr
    _ = 2 ^ (24 : Int) := by rw [← zpow_add₀ two_ne_zero]; congr 1; ring
    _ = _ := by norm_num

/-- Above the subnormal grid the leading bit of the significand is set. -/
theorem significand_normal (ha : 0 < a) (hd : 0 < d) (hG : -126 < gridExp a d) : 8388608 ≤ significand a d := by
  refine le_significand hd ?_
  have hx : (2 : Rat) ^ gridExp a d ≤ (a : Rat) / d := by
    rw [show gridExp a d = ilog2 a d by unfold gridExp at *; omega]
    exact (ilog2_spec ha hd).1
  calc ((8388608 : Nat) : Rat) = 2 ^ (23 : Int) := by norm_num
    _ = 2 ^ gridExp a d * 2 ^ (23 - gridExp a d) := by rw [← zpow_add₀ two_ne_zero]; congr 1; ring
    _ ≤ _ := by gcongr

theorem neg_126_le_gridExp (a d : Nat) : -126 ≤ gridExp a d := le_max_right _ _

theorem gridExp_mono {a' d' : Nat} (ha : 0 < a) (hd : 0 < d) (ha' : 0 < a') (hd' : 0 < d')
    (h : (a : Rat) / d ≤ (a' : Rat) / d') : gridExp a d ≤ gridExp a' d' := by
  have hlt : (2 : Rat) ^ ilog2 a d < 2 ^ (ilog2 a' d' + 1) :=
    ((ilog2_spec ha hd).1.trans h).trans_lt (ilog2_spec ha' hd').2
  have hlog := (zpow_lt_zpow_iff_right₀ one_lt_two).1 hlt
  unfold gridExp
  omega

/-- The larger of two numbers lies on the same grid with a significand no smaller, or on a coarser, normal one. -/
theorem grid_cases {a' d' : Nat} (ha : 0 < a) (hd : 0 < d) (ha' : 0 < a') (hd' : 0 < d')
    (h : (a : Rat) / d ≤ (a' : Rat) / d') :
    (gridExp a d = gridExp a' d' ∧ significand a d ≤ significand a' d') ∨
    (gridExp a d < gridExp a' d' ∧ significand a d ≤ 16777216 ∧ 8388608 ≤ significand a' d') := by
  rcases (gridExp_mono ha hd ha' hd' h).eq_or_lt with hG | hG
  · refine .inl ⟨hG, roundHalfEven_mono (by positivity) (by positivity) ?_⟩
    rw [significand_quotient, significand_quotient, hG]
    gcongr
  · exact .inr ⟨hG, significand_le_carry ha hd,
      significand_normal ha' hd' ((neg_126_le_gridExp a d).trans_lt hG)⟩

theorem magBits_le_infBits (a d : Nat) : magBits a d ≤ infBits := min_le_right _ _

theorem magBits_mono {a' d' : Nat} (ha : 0 < a) (hd : 0 < d) (ha' : 0 < a') (hd' : 0 < d')
    (h : (a : Rat) / d ≤ (a' : Rat) / d') : magBits a d ≤ magBits a' d' := by
  have hlow := neg_126_le_gridExp a d
  refine min_le_min_right _ ?_
  rcases grid_cases ha hd ha' hd' h with ⟨hG, hsig⟩ | ⟨hG, hsig, hsig'⟩
  · rw [hG]; omega
  · omega

end Grid

/-! ## The magnitude a rational is rounded to -/

/-- The magnitude `q` is rounded to, were the exponent unbounded above: its significand in units of its last place. -/
def roundedMag (q : Rat) : Rat :=
  (significand q.num.natAbs q.den : Rat) * 2 ^ (gridExp q.num.natAbs q.den - 23)

theorem roundedMag_zero : roundedMag 0 = 0 := by
  rw [roundedMag, show significand (0 : Rat).num.natAbs (0 : Rat).den = 0 by decide, Nat.cast_zero, zero_mul]

theorem roundedMag_nonneg (q : Rat) : 0 ≤ roundedMag q := by
  unfold roundedMag; positivity

theorem natAbs_num_pos {q : Rat} (hq : q ≠ 0) : 0 < q.num.natAbs :=
  Int.natAbs_pos.2 (Rat.num_ne_zero.2 hq)

theorem natAbs_num_div_den (q : Rat) : (q.num.natAbs : Rat) / q.den = |q| := by
  rw [Nat.cast_natAbs, Int.cast_abs, ← Nat.abs_cast q.den, ← abs_div, Rat.num_div_den]

theorem roundedMag_mono {q r : Rat} (h : |q| ≤ |r|) : roundedMag q ≤ roundedMag r := by
  by_cases hq : q = 0
  · rw [hq, roundedMag_zero]
    exact roundedMag_nonneg r
  have hr : r ≠ 0 := abs_pos.1 ((abs_pos.2 hq).trans_le h)
  rw [← natAbs_num_div_den, ← natAbs_num_div_den] at h
  unfold roundedMag
  rcases grid_cases (natAbs_num_pos hq) q.den_pos (natAbs_num_pos hr) r.den_pos h with
    ⟨hG, hsig⟩ | ⟨hG, hsig, hsig'⟩
  · rw [hG]
    gcongr
  · generalize gridExp q.num.natAbs q.den = G at *
    generalize gridExp r.num.natAbs r.den = G' at *
    have s1 : ((significand q.num.natAbs q.den : Nat) : Rat) ≤ 2 ^ (24 : Int) := by
      norm_num; exact_mod_cast hsig
    have s2 : (2 : Rat) ^ (23 : Int) ≤ (significand r.num.natAbs r.den : Nat) := by
      norm_num; exact_mod_cast hsig'
    calc ((significand q.num.natAbs q.den : Nat) : Rat) * 2 ^ (G - 23)
        ≤ 2 ^ (24 : Int) * 2 ^ (G - 23) := by gcongr
      _ = 2 ^ (G + 1) := by rw [← zpow_add₀ two_ne_zero]; congr 1; ring
      _ ≤ 2 ^ G' := zpow_le_zpow_right₀ one_le_two hG
      _ = 2 ^ (23 : Int) * 2 ^ (G' - 23) := by rw [← zpow_add₀ two_ne_zero]; congr 1; ring
      _ ≤ _ := by gcongr

/-! ## The bits of a rounded rational -/

theorem b32OfRat_of_ne_zero {q : Rat} (hq : q ≠ 0) :
    b32OfRat q =
      BitVec.ofNat 32 ((if q < 0 then 2147483648 else 0) + magBits q.num.natAbs q.den) := by
  simp [b32OfRat, hq, Rat.num_neg]

theorem b32OfRat_toNat {q : Rat} (hq : q ≠ 0) :
    (b32OfRat q).toNat = (if q < 0 then 2147483648 else 0) + magBits q.num.natAbs q.den := by
  have hle := magBits_le_infBits q.num.natAbs q.den
  rw [b32OfRat_of_ne_zero hq, BitVec.toNat_ofNat, Nat.mod_eq_of_lt]
  unfold infBits at hle
  split <;> omega

theorem b32OfRat_eq_posInf_iff {q : Rat} :
    b32OfRat q = 0x7F800000 ↔ 0 < q ∧ magBits q.num.natAbs q.den = infBits := by
  by_cases hq : q = 0
  · subst hq
    exact iff_of_false (by decide) (by simp)
  have hle := magBits_le_infBits q.num.natAbs q.den
  rw [← BitVec.toNat_inj, b32OfRat_toNat hq, show (0x7F800000 : BitVec 32).toNat = infBits from rfl]
  rcases lt_or_gt_of_ne hq with h | h
  · rw [if_pos h]
    refine iff_of_false ?_ fun h' => absurd h'.1 h.le.not_gt
    unfold infBits at *; omega
  · rw [if_neg h.le.not_gt, zero_add, and_iff_right h]

theorem b32OfRat_eq_negInf_iff {q : Rat} :
    b32OfRat q = 0xFF800000 ↔ q < 0 ∧ magBits q.num.natAbs q.den = infBits := by
  by_cases hq : q = 0
  · subst hq
    exact iff_of_false (by decide) (by simp)
  have hle := magBits_le_infBits q.num.natAbs q.den
  rw [← BitVec.toNat_inj, b32OfRat_toNat hq, show (0xFF800000 : BitVec 32).toNat = 2147483648 + infBits from rfl]
  rcases lt_or_gt_of_ne hq with h | h
  · rw [if_pos h, Nat.add_left_cancel_iff, and_iff_right h]
  · rw [if_neg h.le.not_gt]
    refine iff_of_false ?_ fun h' => absurd h'.1 h.le.not_gt
    unfold infBits at *; omega

theorem b32Finite_b32OfRat_iff {q : Rat} (hq : q ≠ 0) :
    b32Finite (b32OfRat q) = true ↔ magBits q.num.natAbs q.den < infBits := by
  have hle := magBits_le_infBits q.num.natAbs q.den
  rw [b32OfRat_of_ne_zero hq, b32Finite, (fields_ofNat _).1, bne_iff_ne]
  unfold infBits at *
  split <;> omega

theorem b32OfRat_msb {q : Rat} (hq : q ≠ 0) : (b32OfRat q).msb = decide (q < 0) := by
  have hle := magBits_le_infBits q.num.natAbs q.den
  unfold infBits at hle
  rw [BitVec.msb_eq_decide, b32OfRat_toNat hq, decide_eq_decide]
  by_cases h : q < 0
  · rw [if_pos h]
    exact iff_of_true (by omega) h
  · rw [if_neg h]
    exact iff_of_false (by omega) h

theorem b32Mag_b32OfRat {q : Rat} (hq : q ≠ 0) (h : b32Finite (b32OfRat q) = true) :
    b32Mag (b32OfRat q) = roundedMag q := by
  have ha := natAbs_num_pos hq
  have hlow := neg_126_le_gridExp q.num.natAbs q.den
  have hnormal := significand_normal ha q.den_pos
  have hmag := (b32Finite_b32OfRat_iff hq).1 h
  unfold magBits infBits at hmag
  have hbits : magBits q.num.natAbs q.den =
      (gridExp q.num.natAbs q.den + 126).toNat * 8388608 + significand q.num.natAbs q.den := by
    unfold magBits infBits; omega
  have hparts := b32Mag_of_parts (E := (gridExp q.num.natAbs q.den + 126).toNat) (by omega)
    (significand_le_carry ha q.den_pos) (by omega) (if q < 0 then 2147483648 else 0) (by split <;> simp)
  rw [b32OfRat_of_ne_zero hq, hbits, hparts.2, roundedMag]
  congr 2
  omega

/-- The value of a finite result: the rounded magnitude under the sign of `q`. -/
theorem b32Val_b32OfRat {q : Rat} (h : b32Finite (b32OfRat q) = true) :
    b32Val (b32OfRat q) = if q < 0 then -roundedMag q else roundedMag q := by
  by_cases hq : q = 0
  · subst hq
    rw [roundedMag_zero]
    decide +kernel
  · rw [b32Val, if_pos h, b32OfRat_msb hq, b32Mag_b32OfRat hq h]
    simp only [decide_eq_true_eq]

/-! ## Exactness -/

theorem abs_dyadic {q : Rat} {k e : Int} (h : q = k * 2 ^ e) : |q| = (k.natAbs : Rat) * 2 ^ e := by
  rw [h, abs_mul, abs_zpow, abs_two, Nat.cast_natAbs, Int.cast_abs]

/-- A number `k * 2^e` with `|k| < 2^24` and `e` at least that of the subnormal grid is in whole units of the last
place of its own grid. -/
theorem gridExp_le_of_dyadic {q : Rat} {k e : Int} (hq : q ≠ 0) (h : q = k * 2 ^ e) (hk : k.natAbs < 2 ^ 24)
    (he : -149 ≤ e) : gridExp q.num.natAbs q.den ≤ e + 23 := by
  have hlt : (2 : Rat) ^ ilog2 q.num.natAbs q.den < 2 ^ (e + 24) := by
    calc (2 : Rat) ^ ilog2 q.num.natAbs q.den ≤ |q| :=
          natAbs_num_div_den q ▸ (ilog2_spec (natAbs_num_pos hq) q.den_pos).1
      _ = (k.natAbs : Rat) * 2 ^ e := abs_dyadic h
      _ < (2 ^ 24 : Nat) * 2 ^ e := by gcongr
      _ = 2 ^ (e + 24) := by rw [zpow_add₀ two_ne_zero, mul_comm]; norm_num
  have hlog := (zpow_lt_zpow_iff_right₀ one_lt_two).1 hlt
  unfold gridExp
  omega

theorem roundedMag_of_dyadic {q : Rat} {k e : Int} (h : q = k * 2 ^ e) (hk : k.natAbs < 2 ^ 24) (he : -149 ≤ e) :
    roundedMag q = |q| := by
  by_cases hq : q = 0
  · rw [hq, roundedMag_zero, abs_zero]
  have hG := gridExp_le_of_dyadic hq h hk he
  have hunits : (q.num.natAbs : Rat) / q.den * 2 ^ (23 - gridExp q.num.natAbs q.den) =
      (k.natAbs * 2 ^ (e + 23 - gridExp q.num.natAbs q.den).toNat : Nat) := by
    rw [natAbs_num_div_den, abs_dyadic h, mul_assoc, ← zpow_add₀ two_ne_zero, ← add_sub_assoc]
    push_cast
    rw [← zpow_natCast, Int.toNat_of_nonneg (by omega)]
  have hsig : significand q.num.natAbs q.den = k.natAbs * 2 ^ (e + 23 - gridExp q.num.natAbs q.den).toNat :=
    le_antisymm (significand_le q.den_pos hunits.le) (le_significand q.den_pos hunits.ge)
  rw [roundedMag, hsig, ← hunits, natAbs_num_div_den, mul_assoc, ← zpow_add₀ two_ne_zero]
  simp

/-- Binary32 holds `k * 2^e` exactly when `|k| < 2^24` and neither end of the exponent range is passed. -/
theorem b32Val_b32OfRat_of_dyadic {q : Rat} {k e : Int} (h : q = k * 2 ^ e) (hk : k.natAbs < 2 ^ 24)
    (he : -149 ≤ e) (he' : e ≤ 103) : b32Val (b32OfRat q) = q := by
  have hfin : b32Finite (b32OfRat q) = true := by
    by_cases hq : q = 0
    · rw [hq]; decide
    have hG := gridExp_le_of_dyadic hq h hk he
    have hsig := significand_le_carry (natAbs_num_pos hq) q.den_pos
    exact (b32Finite_b32OfRat_iff hq).2 (by unfold magBits infBits; omega)
  rw [b32Val_b32OfRat hfin, roundedMag_of_dyadic h hk he]
  split
  case isTrue hneg => rw [abs_of_neg hneg, neg_neg]
  case isFalse hneg => exact abs_of_nonneg (not_lt.1 hneg)

/-- Settles O41: each value is `k * 2^e` with `|k| < 2^24`. -/
theorem binary32IsExactOnTheFixedPointValues : Obligations.Binary32IsExactOnTheFixedPointValues := by
  unfold Obligations.Binary32IsExactOnTheFixedPointValues
  refine ⟨fun k hk => ?_, fun k hk => ?_, ?_⟩
  · exact b32Val_b32OfRat_of_dyadic (e := -4) (k := k) (by norm_num [div_eq_mul_inv]) (by omega)
      (by decide) (by decide)
  · exact b32Val_b32OfRat_of_dyadic (e := -2) (k := k) (by norm_num [div_eq_mul_inv]) (by omega)
      (by decide) (by decide)
  · exact b32Val_b32OfRat_of_dyadic (e := 0) (k := -999) (by norm_num) (by decide) (by decide) (by decide)

/-! ## Monotonicity -/

theorem magBits_mono_of_abs {q r : Rat} (hq : q ≠ 0) (h : |q| ≤ |r|) :
    magBits q.num.natAbs q.den ≤ magBits r.num.natAbs r.den := by
  have hr : r ≠ 0 := abs_pos.1 ((abs_pos.2 hq).trans_le h)
  refine magBits_mono (natAbs_num_pos hq) q.den_pos (natAbs_num_pos hr) r.den_pos ?_
  rwa [natAbs_num_div_den, natAbs_num_div_den]

theorem b32Val_b32OfRat_mono {q r : Rat} (h : q ≤ r) (hq : b32Finite (b32OfRat q) = true)
    (hr : b32Finite (b32OfRat r) = true) : b32Val (b32OfRat q) ≤ b32Val (b32OfRat r) := by
  rw [b32Val_b32OfRat hq, b32Val_b32OfRat hr]
  rcases lt_or_ge q 0 with q0 | q0 <;> rcases lt_or_ge r 0 with r0 | r0
  · rw [if_pos q0, if_pos r0]
    exact neg_le_neg (roundedMag_mono (by rw [abs_of_neg q0, abs_of_neg r0]; exact neg_le_neg h))
  · rw [if_pos q0, if_neg r0.not_gt]
    exact (neg_nonpos.2 (roundedMag_nonneg q)).trans (roundedMag_nonneg r)
  · exact absurd (q0.trans h) r0.not_ge
  · rw [if_neg q0.not_gt, if_neg r0.not_gt]
    exact roundedMag_mono (by rwa [abs_of_nonneg q0, abs_of_nonneg r0])

theorem b32OfRat_posInf_mono {q r : Rat} (h : q ≤ r) (hq : b32OfRat q = 0x7F800000) : b32OfRat r = 0x7F800000 := by
  obtain ⟨q0, hinf⟩ := b32OfRat_eq_posInf_iff.1 hq
  have r0 := q0.trans_le h
  have hmag := magBits_mono_of_abs q0.ne' (by rwa [abs_of_pos q0, abs_of_pos r0] : |q| ≤ |r|)
  exact b32OfRat_eq_posInf_iff.2 ⟨r0, (magBits_le_infBits _ _).antisymm (hinf ▸ hmag)⟩

theorem b32OfRat_negInf_mono {q r : Rat} (h : q ≤ r) (hr : b32OfRat r = 0xFF800000) : b32OfRat q = 0xFF800000 := by
  obtain ⟨r0, hinf⟩ := b32OfRat_eq_negInf_iff.1 hr
  have q0 := h.trans_lt r0
  have hmag := magBits_mono_of_abs r0.ne (by rw [abs_of_neg r0, abs_of_neg q0]; exact neg_le_neg h : |r| ≤ |q|)
  exact b32OfRat_eq_negInf_iff.2 ⟨q0, (magBits_le_infBits _ _).antisymm (hinf ▸ hmag)⟩

/-- Settles O42: on finite results the rounded magnitude is monotone, and at the infinities the bits are. -/
theorem binary32IsMonotone : Obligations.Binary32IsMonotone := by
  unfold Obligations.Binary32IsMonotone
  exact fun q r h => ⟨b32Val_b32OfRat_mono h, b32OfRat_posInf_mono h, b32OfRat_negInf_mono h⟩

/-! ## Exactness in every admitted numerics record -/

theorem val_fl_sixteenths (n : NumKind) {k : Int} (hk : k.natAbs < 2 ^ 20) :
    val (fl n ((k : Rat) / 16)) = (k : Rat) / 16 := by
  cases n with
  | binary32 =>
    obtain ⟨hsixteenths, -, -⟩ := binary32IsExactOnTheFixedPointValues
    exact hsixteenths k hk
  | custom => exact Config.customNum.sixteenths k hk

theorem val_fl_quarters (n : NumKind) {k : Nat} (hk : k < 2 ^ 20) : val (fl n ((k : Rat) / 4)) = (k : Rat) / 4 := by
  cases n with
  | binary32 =>
    obtain ⟨-, hquarters, -⟩ := binary32IsExactOnTheFixedPointValues
    exact hquarters k hk
  | custom => exact Config.customNum.quarters k hk

theorem altFrac_lt (high : Bool) (b : Byte) : altFrac high b < 16 := by
  have hb := b.isLt
  cases high
  · simp only [altFrac, lowNibble_eq, Bool.false_eq_true, if_false]; omega
  · simp only [altFrac, highNibble_eq, if_true]; omega

/-- The altitude in sixteenths of a metre (R152). -/
theorem altValue_eq_sixteenths (high : Bool) (b0 b1 b2 : Byte) :
    altValue high b0 b1 b2 = (((16 * be16u b0 b1 + altFrac high b2 : Nat) : Int) : Rat) / 16 := by
  unfold altValue
  push_cast
  ring

/-- The pressure in quarters of a pascal (R154). -/
theorem presValue_eq_quarters (b0 b1 b2 : Byte) :
    presValue b0 b1 b2 = ((4 * presInt b0 b1 b2 + presFrac b2 : Nat) : Rat) / 4 := by
  unfold presValue
  push_cast
  ring

/-- The barometric temperature in sixteenths of a degree (R156). -/
theorem baTempValue_eq_sixteenths (b0 b1 : Byte) :
    baTempValue b0 b1 = ((if b0.getLsbD 7 then -((neg (tempPattern b0 b1)).toNat : Int)
      else (tempPattern b0 b1).toNat : Int) : Rat) / 16 := by
  unfold baTempValue
  split
  · rw [tempMagnitude_eq, Int.cast_neg, Int.cast_natCast, neg_div]
  · rw [tempMagnitude_eq, Int.cast_natCast]

theorem val_fl_altValue (n : NumKind) (high : Bool) (b0 b1 b2 : Byte) :
    val (fl n (altValue high b0 b1 b2)) = altValue high b0 b1 b2 := by
  have hint : be16u b0 b1 < 2 ^ 16 := (be16 b0 b1).isLt
  have hfrac := altFrac_lt high b2
  rw [altValue_eq_sixteenths]
  exact val_fl_sixteenths n (by omega)

theorem val_fl_presValue (n : NumKind) (b0 b1 b2 : Byte) :
    val (fl n (presValue b0 b1 b2)) = presValue b0 b1 b2 := by
  have hword := (be24 b0 b1 b2).isLt
  rw [be24_toNat] at hword
  have hint := presInt_eq b0 b1 b2
  have hfrac := presFrac_eq b2
  rw [presValue_eq_quarters]
  exact val_fl_quarters n (by omega)

theorem val_fl_baTempValue (n : NumKind) (b0 b1 : Byte) :
    val (fl n (baTempValue b0 b1)) = baTempValue b0 b1 := by
  have hpat := (tempPattern b0 b1).isLt
  have hneg := (neg (tempPattern b0 b1)).isLt
  rw [baTempValue_eq_sixteenths]
  exact val_fl_sixteenths n (by split <;> omega)

/-- Settles O26: each decode is a multiple of 1/16 or of 1/4 within R14's ranges. -/
theorem baDecodesAreExactInEveryNumerics : Obligations.BaDecodesAreExactInEveryNumerics := by
  unfold Obligations.BaDecodesAreExactInEveryNumerics
  exact fun n high b0 b1 b2 =>
    ⟨val_fl_altValue n high b0 b1 b2, val_fl_presValue n b0 b1 b2, val_fl_baTempValue n b0 b1⟩

end Sys2Proof.Machine
end

section
/-! What a DP command does: it reads some of the registers, and from them alone it either raises one fault or fixes its
writes (spec/10_state.md R20, R26, R35). -/

namespace Sys2Proof.Machine

/-! ## What a command reads and writes -/

/-- Two states with the same values in every register that some command reads; the RawAxes, `TMO`, `FLT`, `RESB` and
the other fields may differ. -/
structure SameReads (s u : State) : Prop where
  sb : u.sb = s.sb
  sbcnt : u.sbcnt = s.sbcnt
  range : u.range = s.range
  gyst : u.gyst = s.gyst
  res0 : u.res0 = s.res0
  resv : u.resv = s.resv
  crv : u.crv = s.crv
  ticks : u.ticks = s.ticks
  cfg : u.cfg = s.cfg

theorem SameReads.refl (s : State) : SameReads s s := ⟨rfl, rfl, rfl, rfl, rfl, rfl, rfl, rfl, rfl⟩

/-- The writes, as a function of the state, that a command can perform when it raises nothing in `s` (R20's column
"written by"). -/
inductive Writes (s : State) : Instr → (State → State) → Prop
  | scalar {i : Instr} (hi : i ∈ [Instr.htTemp, .htHum, .baAlt, .baPres, .baTemp]) (v : Rat) :
      Writes s i (writeScalar v)
  | sentinel : Writes s .baTmo fun u => { writeScalar Config.sentinel u with tmo := true }
  | bounds (v0 v1 v2 : Rat) : Writes s .gyMeta (writeTriple v0 v1 v2)
  | event (v0 v1 v2 : Rat) (x y z : BitVec 16) {now : Tick} (hticks : s.ticks = some now) :
      Writes s .gyEvent fun u =>
        writeTriple v0 v1 v2 { u with rawx := some x, rawy := some y, rawz := some z, evts := some now }
  | check {i : Instr} (hi : writesResb i) (b : Bool) : Writes s i (writeCheck b)
  | configure (r : Nat) : Writes s (.gyBegin r) fun u =>
      writeCheck true { u with range := some (BitVec.ofNat 2 r), gyst := .active }
  | convert {i : Instr} (hi : i = .baAltft ∨ i = .baTempf) (g : Rat → Rat) {r : F} (hres0 : s.res0 = some r) :
      Writes s i fun u => { u with res0 := some (convert u.cfg.num g r) }
  | crv {i : Instr} (hi : i.family = .cr) (c : Byte) : Writes s i fun u => { u with crv := some c }

/-- A command raises SHORT only if it reads the sample and the count is not the one it needs (R23). -/
def ShortCause (i : Instr) (s : State) (c : FaultCode) : Prop :=
  c = .short → ∃ n, expectedCount i = some n ∧ s.sbcnt.toNat ≠ n

theorem shortCause_of_ne (i : Instr) (s : State) {c : FaultCode} (hc : c ≠ .short) : ShortCause i s c :=
  fun h => absurd h hc

/-- `f` decides from the registers of `s` that commands read: in every state with the same values in them it raises
the same fault, or performs the same writes. -/
inductive Decides (i : Instr) (s : State) (f : State → Except FaultCode State) : Prop
  | fails (c : FaultCode) (hc : ShortCause i s c) (hf : ∀ u, SameReads s u → f u = .error c)
  | writes (w : State → State) (hw : Writes s i w) (hf : ∀ u, SameReads s u → f u = .ok (w u))

/-! ## One rule for each way a command reads -/

section Rules
variable {i : Instr} {s : State}

/-- A read of registers that commands read, and what follows it. -/
theorem Decides.read {α : Type} {r : State → Except FaultCode α} {k : α → State → Except FaultCode State}
    (hr : ∀ u, SameReads s u → r u = r s) (hfail : ∀ c, r s = .error c → ShortCause i s c)
    (hk : ∀ a, r s = .ok a → Decides i s (k a)) : Decides i s fun u => r u >>= fun a => k a u := by
  cases ha : r s with
  | error c => exact .fails c (hfail c ha) fun u hu => by simp only [hr u hu, ha]; rfl
  | ok a =>
    have hbind (u : State) (hu : SameReads s u) : (r u >>= fun a => k a u) = k a u := by
      simp only [hr u hu, ha]; rfl
    cases hk a ha with
    | fails c hc hf => exact .fails c hc fun u hu => (hbind u hu).trans (hf u hu)
    | writes w hw hf => exact .writes w hw fun u hu => (hbind u hu).trans (hf u hu)

theorem Decides.count {n : Nat} {k : State → Except FaultCode State} (hn : expectedCount i = some n)
    (hk : Decides i s k) : Decides i s fun u => needCount n u >>= fun _ => k u := by
  refine .read (fun u hu => by simp only [needCount, hu.sbcnt]) (fun c hc _ => ⟨n, hn, fun h => ?_⟩) fun _ _ => hk
  rw [needCount_of_eq h] at hc
  cases hc

theorem Decides.register {α : Type} {r : State → Option α} {k : α → State → Except FaultCode State}
    (hr : ∀ u, SameReads s u → r u = r s) (hk : ∀ a, r s = some a → Decides i s (k a)) :
    Decides i s fun u => need (r u) >>= fun a => k a u := by
  refine .read (fun u hu => by rw [hr u hu]) (fun c hc => ?_) fun a ha => hk a (need_eq_ok.1 ha)
  obtain ⟨-, rfl⟩ := need_eq_error.1 hc
  exact shortCause_of_ne i s (by decide)

theorem Decides.byte {j : Fin 7} {k : Byte → State → Except FaultCode State} (hk : ∀ b, Decides i s (k b)) :
    Decides i s fun u => sample j u >>= fun b => k b u :=
  .register (r := fun u => u.sb[j]) (fun u hu => by rw [hu.sb]) fun b _ => hk b

theorem Decides.active {k : State → Except FaultCode State} (hk : Decides i s k) :
    Decides i s fun u => needActive u >>= fun _ => k u := by
  refine .read (fun u hu => by simp only [needActive, hu.gyst]) (fun c hc => ?_) fun _ _ => hk
  refine shortCause_of_ne i s ?_
  rintro rfl
  cases hg : s.gyst <;> simp [needActive, hg] at hc

theorem Decides.pure {f w : State → State} (hw : Writes s i w) (hf : ∀ u, SameReads s u → f u = w u) :
    Decides i s fun u => pure (f u) :=
  .writes w hw fun u hu => congrArg Except.ok (hf u hu)

theorem needRes0_eq_ok {r : F} (h : needRes0 s = .ok r) : s.res0 = some r := by
  unfold needRes0 at h
  split at h
  · exact need_eq_ok.1 h
  · cases h

theorem needRes0_ne_short : needRes0 s ≠ .error .short := by
  unfold needRes0
  split
  · cases s.res0 <;> simp
  · simp

theorem Decides.convertRes0 (hi : i = .baAltft ∨ i = .baTempf) (g : Rat → Rat) :
    Decides i s (convertRes0 g) := by
  refine .read (fun u hu => by simp only [needRes0, hu.resv, hu.res0]) (fun c hc => ?_) fun r hr => ?_
  · refine shortCause_of_ne i s ?_
    rintro rfl
    exact needRes0_ne_short hc
  · exact .pure (.convert hi g (needRes0_eq_ok hr)) fun u _ => rfl

theorem Decides.transformCrv (hi : i.family = .cr) (g : Cfg → Byte → Byte) :
    Decides i s fun u => transformCrv (g u.cfg) u :=
  .register (r := fun u => u.crv) (fun u hu => hu.crv) fun c _ =>
    .pure (.crv hi (g s.cfg c)) fun u hu => by rw [hu.cfg]

end Rules

/-! ## Every command decides from the registers it reads -/

theorem gyBegin_decides (r : Nat) (s : State) : Decides (.gyBegin r) s (commandGyBegin r) := by
  refine .count rfl (.byte fun b => ?_)
  by_cases hb : b = s.cfg.gyIdExpected
  · exact .writes _ (.configure r) fun u hu => by rw [hu.cfg, if_pos hb]; rfl
  · exact .writes _ (.check (.inr ⟨r, rfl⟩) false) fun u hu => by rw [hu.cfg, if_neg hb]; rfl

theorem gyEvent_decides (s : State) : Decides .gyEvent s commandGyEvent := by
  refine .active (.count rfl (.register (r := State.ticks) (fun u hu => hu.ticks) fun now hnow => ?_))
  refine .byte fun x1 => .byte fun x0 => .byte fun y1 => .byte fun y0 => .byte fun z1 => .byte fun z0 => ?_
  refine .register (r := State.range) (fun u hu => hu.range) fun range _ => ?_
  exact .pure (.event (gyRateValue s.cfg range (be16s x1 x0)) (gyRateValue s.cfg range (be16s y1 y0))
    (gyRateValue s.cfg range (be16s z1 z0)) (be16 x1 x0) (be16 y1 y0) (be16 z1 z0) hnow) fun u hu => by rw [hu.cfg]

theorem gyMeta_decides (s : State) : Decides .gyMeta s commandGyMeta :=
  .active <| .register (r := State.range) (fun u hu => hu.range) fun range _ =>
    .pure (.bounds (-gyBoundValue s.cfg range) (gyBoundValue s.cfg range) 0) fun u hu => by rw [hu.cfg]

/-- A command is a function of the registers it reads: it raises a fault, or performs its writes. -/
theorem command_decides (i : Instr) (s : State) : Decides i s (command i) := by
  cases i with
  | htInitchk =>
    exact .count rfl <| .byte fun b => .pure (.check (.inl rfl) (b == s.cfg.htResetSentinel)) fun u hu => by rw [hu.cfg]
  | htTemp =>
    exact .count rfl <| .byte fun b0 => .byte fun b1 =>
      .pure (.scalar (by simp) (htTempValue (be16u b0 b1))) fun _ _ => rfl
  | htHum =>
    exact .count rfl <| .byte fun b0 => .byte fun b1 =>
      .pure (.scalar (by simp) (htHumValue (be16u b0 b1))) fun _ _ => rfl
  | gyBegin r => exact gyBegin_decides r s
  | gyEvent => exact gyEvent_decides s
  | gyMeta => exact gyMeta_decides s
  | baAlt =>
    exact .count rfl <| .byte fun b0 => .byte fun b1 => .byte fun b2 =>
      .pure (.scalar (by simp) (altValue s.cfg.altFracHigh b0 b1 b2)) fun u hu => by rw [hu.cfg]
  | baPres =>
    exact .count rfl <| .byte fun b0 => .byte fun b1 => .byte fun b2 =>
      .pure (.scalar (by simp) (presValue b0 b1 b2)) fun _ _ => rfl
  | baTemp =>
    exact .count rfl <| .byte fun b0 => .byte fun b1 =>
      .pure (.scalar (by simp) (baTempValue b0 b1)) fun _ _ => rfl
  | baTmo => exact .writes _ .sentinel fun _ _ => rfl
  | baAltft => exact .convertRes0 (.inl rfl) _
  | baTempf => exact .convertRes0 (.inr rfl) _
  | crModebar => exact .transformCrv rfl fun cfg c => clrbit c cfg.baAltBit.val
  | crModealt => exact .transformCrv rfl fun cfg c => setbit c cfg.baAltBit.val
  | crStandby => exact .transformCrv rfl fun cfg c => clrbit c cfg.baSbybBit.val
  | crActive => exact .transformCrv rfl fun cfg c => setbit c cfg.baSbybBit.val
  | crOsr n => exact .transformCrv rfl fun _ c => insertOs c n
  | crOstclr => exact .transformCrv rfl fun cfg c => clrbit c cfg.baOstBit.val
  | crOstset => exact .transformCrv rfl fun cfg c => setbit c cfg.baOstBit.val
  | crEvflags => exact .transformCrv rfl fun cfg c => c ||| cfg.baEventMask

/-- What `exec` does, in every state with the same values in the registers that commands read: the one fault of the
command is recorded, or its writes are performed. -/
inductive ExecDecides (i : Instr) (s : State) : Prop
  | fails (c : FaultCode) (hc : ShortCause i s c)
      (hexec : ∀ u, SameReads s u → raisedBy i u = some c ∧ exec i u = .next (raise c (destOf i) u))
  | writes (w : State → State) (hw : Writes s i w)
      (hexec : ∀ u, SameReads s u → raisedBy i u = none ∧ exec i u = .next (w u))

theorem exec_decides (i : Instr) (s : State) : ExecDecides i s := by
  cases command_decides i s with
  | fails c hc hf => exact .fails c hc fun u hu => ⟨by rw [raisedBy, hf u hu], exec_of_error (hf u hu)⟩
  | writes w hw hf => exact .writes w hw fun u hu => ⟨by rw [raisedBy, hf u hu], exec_of_ok (hf u hu)⟩

/-- A command that ends in `t` has recorded its fault or performed its writes. -/
theorem exec_next_cases {i : Instr} {s t : State} (h : exec i s = .next t) :
    (∃ c, t = raise c (destOf i) s) ∨ ∃ w, Writes s i w ∧ t = w s := by
  cases exec_decides i s with
  | fails c _ hexec =>
    obtain ⟨-, he⟩ := hexec s (.refl s)
    exact .inl ⟨c, Host.Outcome.next.inj (h.symm.trans he)⟩
  | writes w hw hexec =>
    obtain ⟨-, he⟩ := hexec s (.refl s)
    exact .inr ⟨w, hw, Host.Outcome.next.inj (h.symm.trans he)⟩

/-! ## What no command writes -/

/-- The registers that no command writes (R20, R22, R34, R36), and the fields of ACQ, the host and the environment. -/
structure CommandFrame (s t : State) : Prop where
  sb : t.sb = s.sb
  sbcnt : t.sbcnt = s.sbcnt
  ticks : t.ticks = s.ticks
  pollcnt : t.pollcnt = s.pollcnt
  cfg : t.cfg = s.cfg
  acq : t.acq = s.acq
  host : t.host = s.host
  ret : t.ret = s.ret
  hostOut : t.hostOut = s.hostOut
  env : t.env = s.env
  bus : t.bus = s.bus

theorem Writes.commandFrame {i : Instr} {s : State} {w : State → State} (hw : Writes s i w) (u : State) :
    CommandFrame u (w u) := by
  cases hw <;> exact ⟨rfl, rfl, rfl, rfl, rfl, rfl, rfl, rfl, rfl, rfl, rfl⟩

theorem raise_commandFrame (c : FaultCode) (d : Dest) (s : State) : CommandFrame s (raise c d s) := by
  constructor <;> simp

theorem exec_commandFrame {i : Instr} {s t : State} (h : exec i s = .next t) : CommandFrame s t := by
  rcases exec_next_cases h with ⟨c, rfl⟩ | ⟨w, hw, rfl⟩
  · exact raise_commandFrame c (destOf i) s
  · exact hw.commandFrame s

/-- Only a fault writes `FLT` (R30). -/
theorem Writes.flt {i : Instr} {s : State} {w : State → State} (hw : Writes s i w) (u : State) :
    (w u).flt = u.flt := by
  cases hw <;> rfl

/-- No command but GY.BEGIN moves the driver's state, and it only makes it Active (R25). -/
theorem Writes.gyst {i : Instr} {s : State} {w : State → State} (hw : Writes s i w) (u : State) :
    (w u).gyst = u.gyst ∨ (w u).gyst = .active := by
  cases hw
  case configure => exact .inr rfl
  all_goals exact .inl rfl

end Sys2Proof.Machine
end

section
/-! The statements about single commands: SHORT, the frame of a command, and its independence of `TMO`, `FLT` and
`RESB` (spec/10_state.md R20, R23, R35). -/

namespace Sys2Proof.Machine

/-! ## SHORT (R23, R242) -/

/-- A count other than the one a command needs makes it raise SHORT; GY.EVENT tests first that the driver is Active. -/
theorem raisedBy_short_of_wrong_count {i : Instr} {s : State} {n : Nat} (hn : expectedCount i = some n)
    (hgy : i = .gyEvent → s.gyst = .active) (hcount : s.sbcnt.toNat ≠ n) : raisedBy i s = some .short := by
  cases i
  case gyEvent =>
    cases hn
    simp only [raisedBy, command, commandGyEvent, needActive_of_active (hgy rfl), needCount_of_ne hcount]
    rfl
  case htInitchk | htTemp | htHum | gyBegin | baAlt | baPres | baTemp =>
    cases hn
    simp only [raisedBy, command, commandHtInitchk, commandHtTemp, commandHtHum, commandGyBegin, commandBaAlt,
      commandBaPres, commandBaTemp, needCount_of_ne hcount]
    rfl
  all_goals cases hn

theorem wrong_count_of_raisedBy_short {i : Instr} {s : State} (h : raisedBy i s = some .short) :
    ∃ n, expectedCount i = some n ∧ s.sbcnt.toNat ≠ n := by
  cases exec_decides i s with
  | fails c hc hexec =>
    obtain ⟨hr, -⟩ := hexec s (.refl s)
    exact hc (Option.some.inj (hr.symm.trans h))
  | writes w _ hexec =>
    obtain ⟨hr, -⟩ := hexec s (.refl s)
    cases hr.symm.trans h

/-- Settles O34: the count is tested before any read that can raise another fault, and nothing else raises SHORT. -/
theorem shortIsRaisedExactlyOnAWrongCount : Obligations.ShortIsRaisedExactlyOnAWrongCount := by
  unfold Obligations.ShortIsRaisedExactlyOnAWrongCount
  refine fun i s => ⟨fun n hn hgy => ⟨fun h => ?_, raisedBy_short_of_wrong_count hn hgy⟩, fun hn h => ?_⟩
  · obtain ⟨m, hm, hcount⟩ := wrong_count_of_raisedBy_short h
    cases hn.symm.trans hm
    exact hcount
  · obtain ⟨m, hm, -⟩ := wrong_count_of_raisedBy_short h
    cases hn.symm.trans hm

/-! ## The frame of each command (R20) -/

/-- The frame of each group of commands, besides the common one (R20, R24 to R29, R32). -/
def GroupFrame (i : Instr) (s t : State) : Prop :=
  ((∀ r, i ≠ .gyBegin r) → t.range = s.range ∧ t.gyst = s.gyst) ∧
  (i ≠ .gyEvent → t.rawx = s.rawx ∧ t.rawy = s.rawy ∧ t.rawz = s.rawz ∧ t.evts = s.evts) ∧
  (i.family ≠ .cr → t.crv = s.crv) ∧
  (i.family = .cr ∨ i = .htInitchk ∨ (∃ r, i = .gyBegin r) →
    t.res0 = s.res0 ∧ t.res1 = s.res1 ∧ t.res2 = s.res2 ∧ t.resv = s.resv ∧ t.tmo = s.tmo) ∧
  (i = .baAltft ∨ i = .baTempf →
    t.res1 = s.res1 ∧ t.res2 = s.res2 ∧ t.resv &&& 0b110 = s.resv &&& 0b110 ∧ t.tmo = s.tmo) ∧
  (i ≠ .htInitchk → (∀ r, i ≠ .gyBegin r) → t.resb = s.resb ∧ t.resbv = s.resbv)

theorem raise_groupFrame (i : Instr) (s : State) (c : FaultCode) : GroupFrame i s (raise c (destOf i) s) := by
  cases i <;> simp [GroupFrame, destOf, Instr.family, BitVec.and_assoc]

theorem Writes.groupFrame {i : Instr} {s : State} {w : State → State} (hw : Writes s i w) :
    GroupFrame i s (w s) := by
  cases hw with
  | scalar hi v =>
    simp only [List.mem_cons, List.not_mem_nil, or_false] at hi
    rcases hi with rfl | rfl | rfl | rfl | rfl <;> simp [GroupFrame, Instr.family]
  | sentinel => simp [GroupFrame, Instr.family]
  | bounds v0 v1 v2 => simp [GroupFrame, Instr.family]
  | event v0 v1 v2 x y z hticks => simp [GroupFrame, Instr.family]
  | check hi b => rcases hi with rfl | ⟨r, rfl⟩ <;> simp [GroupFrame, Instr.family]
  | configure r => simp [GroupFrame, Instr.family]
  | convert hi g hres0 => rcases hi with rfl | rfl <;> simp [GroupFrame, Instr.family]
  | crv hi c => simp [GroupFrame, hi]

/-- Settles O36: a command ends in its fault or in its writes, and each keeps the frame. -/
theorem commandsWriteOnlyTheirRegisters : Obligations.CommandsWriteOnlyTheirRegisters := by
  unfold Obligations.CommandsWriteOnlyTheirRegisters
  intro i s t h
  have hf := exec_commandFrame h
  have hgroup : GroupFrame i s t := by
    rcases exec_next_cases h with ⟨c, rfl⟩ | ⟨w, hw, rfl⟩
    · exact raise_groupFrame i s c
    · exact hw.groupFrame
  exact ⟨⟨hf.sb, hf.sbcnt, hf.ticks, hf.pollcnt, hf.cfg, hf.acq, hf.host, hf.ret, hf.hostOut, hf.env, hf.bus⟩, hgroup⟩

/-! ## Independence of `TMO`, `FLT` and `RESB` (R35) -/

/-- `s` with other values in `TMO`, `FLT` and `RESB`. -/
def State.withStatus (m : Bool) (f : BitVec 4) (b : Option Bool) (s : State) : State :=
  { s with tmo := m, flt := f, resb := b }

theorem sameReads_withStatus (m : Bool) (f : BitVec 4) (b : Option Bool) (s : State) :
    SameReads s (s.withStatus m f b) := ⟨rfl, rfl, rfl, rfl, rfl, rfl, rfl, rfl, rfl⟩

/-- A write to `TMO` is of a constant, and only the commands of the list make one. -/
theorem Writes.tmo_withStatus {i : Instr} {s : State} {w : State → State} (hw : Writes s i w) (m : Bool)
    (f : BitVec 4) (b : Option Bool) :
    (writesTmo i → (w (s.withStatus m f b)).tmo = (w s).tmo) ∧
      (¬ writesTmo i → (w (s.withStatus m f b)).tmo = m ∧ (w s).tmo = s.tmo) := by
  cases hw with
  | scalar hi v =>
    have htmo : writesTmo i := by
      unfold writesTmo
      simp only [List.mem_cons, List.not_mem_nil, or_false] at hi ⊢
      tauto
    exact ⟨fun _ => rfl, fun h => absurd htmo h⟩
  | sentinel | bounds | event => exact ⟨fun _ => rfl, fun h => absurd (by simp [writesTmo]) h⟩
  | check hi b =>
    exact ⟨fun h => by rcases hi with rfl | ⟨r, rfl⟩ <;> simp [writesTmo] at h, fun _ => ⟨rfl, rfl⟩⟩
  | configure r => exact ⟨fun h => by simp [writesTmo] at h, fun _ => ⟨rfl, rfl⟩⟩
  | convert hi g hres0 =>
    exact ⟨fun h => by rcases hi with rfl | rfl <;> simp [writesTmo] at h, fun _ => ⟨rfl, rfl⟩⟩
  | crv hi c =>
    refine ⟨fun h => ?_, fun _ => ⟨rfl, rfl⟩⟩
    simp only [writesTmo, List.mem_cons, List.not_mem_nil, or_false] at h
    rcases h with rfl | rfl | rfl | rfl | rfl | rfl | rfl | rfl <;> cases hi

theorem Writes.resb_withStatus {i : Instr} {s : State} {w : State → State} (hw : Writes s i w) (m : Bool)
    (f : BitVec 4) (b : Option Bool) :
    (writesResb i → (w (s.withStatus m f b)).resb = (w s).resb) ∧
      (¬ writesResb i → (w (s.withStatus m f b)).resb = b ∧ (w s).resb = s.resb) := by
  cases hw with
  | check hi b => exact ⟨fun _ => rfl, fun h => absurd hi h⟩
  | configure r => exact ⟨fun _ => rfl, fun h => absurd (.inr ⟨r, rfl⟩) h⟩
  | scalar hi v =>
    refine ⟨fun h => ?_, fun _ => ⟨rfl, rfl⟩⟩
    rcases h with rfl | ⟨r, rfl⟩ <;> simp at hi
  | sentinel | bounds | event => exact ⟨fun h => by simp [writesResb] at h, fun _ => ⟨rfl, rfl⟩⟩
  | convert hi g hres0 =>
    exact ⟨fun h => by rcases hi with rfl | rfl <;> simp [writesResb] at h, fun _ => ⟨rfl, rfl⟩⟩
  | crv hi c =>
    refine ⟨fun h => ?_, fun _ => ⟨rfl, rfl⟩⟩
    rcases h with rfl | ⟨r, rfl⟩ <;> cases hi

theorem Writes.eraseStatus_withStatus {i : Instr} {s : State} {w : State → State} (hw : Writes s i w) (m : Bool)
    (f : BitVec 4) (b : Option Bool) : (w (s.withStatus m f b)).eraseStatus = (w s).eraseStatus := by
  cases hw <;> rfl

theorem raise_eraseStatus_withStatus (c : FaultCode) (d : Dest) (m : Bool) (f : BitVec 4) (b : Option Bool)
    (s : State) : (raise c d (s.withStatus m f b)).eraseStatus = (raise c d s).eraseStatus := by
  cases d <;> rfl

/-- Settles O39: none of the three is among the registers that commands read, so the command raises the same fault or
performs the same writes. -/
theorem noCommandDependsOnTmoFltOrResb : Obligations.NoCommandDependsOnTmoFltOrResb := by
  unfold Obligations.NoCommandDependsOnTmoFltOrResb
  intro i s t m f b h
  change ∃ t', exec i (s.withStatus m f b) = .next t' ∧ _
  have hsame := sameReads_withStatus m f b s
  cases exec_decides i s with
  | fails c _ hexec =>
    obtain ⟨hr, he⟩ := hexec s (.refl s)
    obtain ⟨hr', he'⟩ := hexec _ hsame
    cases h.symm.trans he
    refine ⟨_, he', raise_eraseStatus_withStatus c _ m f b s, hr'.trans hr.symm, ?_⟩
    simp [hr, State.withStatus]
  | writes w hw hexec =>
    obtain ⟨hr, he⟩ := hexec s (.refl s)
    obtain ⟨hr', he'⟩ := hexec _ hsame
    cases h.symm.trans he
    obtain ⟨htmo, hntmo⟩ := hw.tmo_withStatus m f b
    obtain ⟨hresb, hnresb⟩ := hw.resb_withStatus m f b
    refine ⟨_, he', hw.eraseStatus_withStatus m f b, hr'.trans hr.symm, ?_⟩
    simp only [hr, and_true]
    exact ⟨fun h _ => htmo h, hntmo, fun h _ => hresb h, hnresb, fun _ => ⟨hw.flt _, hw.flt _⟩, nofun⟩

end Sys2Proof.Machine
end

section
/-! What a step can do to the registers, said once, and the statements that follow from it: nothing but reset clears a
fault bit, only a burst writes the sample, no step writes the configuration, and every step keeps the relations between
the registers (spec/10_state.md R20 to R36). -/

namespace Sys2Proof.Machine

/-! ## What a step can do to the registers -/

/-- The registers of `s`, with ACQ's position, the host's side and the environment of `q`. -/
def State.inShell (s q : State) : State :=
  { s with acq := q.acq, host := q.host, ret := q.ret, hostOut := q.hostOut, env := q.env, bus := q.bus }

/-- What one step can make of the registers of `s`: nothing but ACQ's own (`CRV`, `TICKS`, `POLLCNT`) changes; the bytes
of a burst arrive; a command performs its writes; a fault is raised; or the reset event happens. -/
inductive RegStep (s : State) : State → Prop
  | acqRegs (q : State) (crv : Option Byte) (ticks : Option Tick) (pollcnt : BitVec 10)
      (hticks : s.ticks.isSome = true → ticks.isSome = true) :
      RegStep s ({ s with crv := crv, ticks := ticks, pollcnt := pollcnt }.inShell q)
  | fill (q : State) {k : Nat} {rest : List Act} (hacq : s.acq = .fill k :: rest) :
      RegStep s (actFill k (s.inShell q))
  | writes (q : State) {i : Instr} {w : State → State} (hw : Writes s i w) : RegStep s ((w s).inShell q)
  | raised (q : State) (c : FaultCode) (d : Dest) : RegStep s ((raise c d s).inShell q)
  | reset (q : State) (hreset : s.resetNext) : RegStep s ((resetEvent s).inShell q)

/-- A state that differs from `s` in nothing but ACQ's registers and the shell. -/
theorem RegStep.of_eq {s t : State} (hticks : s.ticks.isSome = true → t.ticks.isSome = true)
    (h : t = { s with crv := t.crv, ticks := t.ticks, pollcnt := t.pollcnt }.inShell t) : RegStep s t := by
  rw [h]
  exact .acqRegs t t.crv t.ticks t.pollcnt hticks

theorem sameReads_inShell (s q : State) : SameReads s (s.inShell q) :=
  ⟨rfl, rfl, rfl, rfl, rfl, rfl, rfl, rfl, rfl⟩

theorem Writes.inShell {i : Instr} {s : State} {w : State → State} (hw : Writes s i w) (q : State) :
    w (s.inShell q) = (w s).inShell q := by
  cases hw <;> rfl

theorem raise_inShell (c : FaultCode) (d : Dest) (s q : State) :
    raise c d (s.inShell q) = (raise c d s).inShell q := by
  cases d <;> rfl

theorem exec_regStep {i : Instr} {s q t : State} (h : exec i (s.inShell q) = .next t) : RegStep s t := by
  cases exec_decides i s with
  | fails c _ hexec =>
    obtain ⟨-, he⟩ := hexec _ (sameReads_inShell s q)
    cases h.symm.trans he
    rw [raise_inShell]
    exact .raised q c _
  | writes w hw hexec =>
    obtain ⟨-, he⟩ := hexec _ (sameReads_inShell s q)
    cases h.symm.trans he
    rw [hw.inShell]
    exact .writes q hw

theorem runWord_regStep {w : Cmd} {s q t : State} (h : runWord w (s.inShell q) = .next t) : RegStep s t := by
  cases hd : decode w with
  | ok i => exact exec_regStep ((runWord_of_decode hd).symm.trans h)
  | error r =>
    rw [runWord_of_reject hd, raise_inShell] at h
    cases h
    exact .raised q _ _

/-- ACQ presents a word: DP runs it, or a fault is raised and the sequence stops. -/
theorem actDp_next_cases (w : Cmd) (s : State) :
    actDp w s = runWord w s ∨ ∃ c d, actDp w s = .next (stopSequence (raise c d s)) := by
  cases hd : decode w with
  | ok i =>
    rcases actDp_cases (s := s) hd with ⟨-, h⟩ | ⟨c, -, h⟩
    · exact .inl (h.trans (runWord_of_decode hd).symm)
    · exact .inr ⟨c, destOf i, h⟩
  | error r =>
    refine .inr ⟨.illegal, .none, ?_⟩
    simp only [actDp, hd, runWord_of_reject hd, thenStop]

theorem raise_stop_regStep (c : FaultCode) (d : Dest) (s q : State) :
    RegStep s (stopSequence (raise c d (s.inShell q))) := by
  rw [raise_inShell]
  exact .raised (stopSequence ((raise c d s).inShell q)) c d

theorem actDp_regStep {w : Cmd} {s q t : State} (h : actDp w (s.inShell q) = .next t) : RegStep s t := by
  rcases actDp_next_cases w (s.inShell q) with hrun | ⟨c, d, hstop⟩
  · exact runWord_regStep (hrun.symm.trans h)
  · cases h.symm.trans hstop
    exact raise_stop_regStep c d s q

/-- To show something of a one-byte read, show it of SHORT and of what follows the byte; up to there nothing but the
environment and the record of bus events has changed. -/
theorem withRead8_elim {P : State → Prop} {dev : Dev} {reg : Byte} {k : Byte → State → State} {s : State}
    (hbyte : ∀ b env bus, P (k b { s with env := env, bus := bus }))
    (hshort : ∀ d env bus, P (stopSequence (raise .short d { s with env := env, bus := bus }))) :
    P (withRead8 dev reg k s) := by
  rcases withRead8_cases dev reg k s with ⟨b, u, hread, h⟩ | ⟨u, hread, h⟩
  · have hP := hbyte b u.env u.bus
    rw [← busRead8_frame hread] at hP
    exact h ▸ hP
  · have hP := hshort (destOfText u.acq) u.env u.bus
    rw [← busRead8_frame hread] at hP
    exact h ▸ hP

theorem withRead8_regStep {dev : Dev} {reg : Byte} {k : Byte → State → State} {s q : State}
    (hk : ∀ b p, RegStep s (k b (s.inShell p))) : RegStep s (withRead8 dev reg k (s.inShell q)) :=
  withRead8_elim (fun b env bus => hk b { s.inShell q with env := env, bus := bus })
    fun d env bus => raise_stop_regStep .short d s { s.inShell q with env := env, bus := bus }

theorem runAct_regStep {a : Act} {rest : List Act} {s q t : State} (hacq : s.acq = a :: rest)
    (h : runAct a (s.inShell q) = .next t) : RegStep s t := by
  cases a with
  | fill k =>
    cases h
    exact .fill q hacq
  | loadCrv dev reg =>
    cases h
    exact withRead8_regStep fun b p => .of_eq id rfl
  | preCheck mask effective =>
    cases h
    refine withRead8_regStep fun b p => ?_
    split <;> exact .of_eq id rfl
  | pollRead mask =>
    cases h
    refine withRead8_regStep fun b p => ?_
    split
    · exact .of_eq id rfl
    · split <;> exact .of_eq id rfl
  | latchTicks =>
    cases h
    exact .of_eq (fun _ => rfl) rfl
  | dp w => exact actDp_regStep h
  | busWriteCrv dev reg =>
    simp only [runAct] at h
    split at h <;> cases h
    exact .of_eq id rfl
  | exitUnlessResb =>
    simp only [runAct] at h
    split at h <;> cases h <;> exact .of_eq id rfl
  | ret k =>
    simp only [runAct] at h
    split at h <;> cases h
    exact .of_eq id rfl
  | busCmd | busWrite | busRead | waitAvail | pollInit | delay | join =>
    cases h
    exact .of_eq id rfl

theorem serveHost_regStep {r : HostReq} {rest : List HostReq} {s q t : State} (hacq : s.acq = [])
    (hhost : s.host = r :: rest) (h : serveHost r (s.inShell q) = .next t) : RegStep s t := by
  cases r with
  | reset =>
    cases h
    exact .reset (resetEvent (s.inShell q)) ⟨hacq, rest, hhost⟩
  | start c =>
    cases h
    exact .of_eq id rfl
  | command w => exact runWord_regStep h
  | read reg =>
    simp only [serveHost] at h
    split at h <;> cases h
    exact .of_eq id rfl

theorem step_of_act {a : Act} {rest : List Act} {s : State} (hacq : s.acq = a :: rest) :
    step s = runAct a { s with acq := rest } := by
  unfold step
  rw [hacq]

theorem step_of_request {r : HostReq} {rest : List HostReq} {s : State} (hacq : s.acq = [])
    (hhost : s.host = r :: rest) : step s = serveHost r { s with host := rest } := by
  unfold step
  rw [hacq, hhost]

theorem step_of_idle {s : State} (hacq : s.acq = []) (hhost : s.host = []) : step s = .next s := by
  unfold step
  rw [hacq, hhost]

/-- A step is an action of ACQ, a request of the host, or waiting. -/
theorem step_cases (s : State) :
    (∃ a rest, s.acq = a :: rest ∧ step s = runAct a { s with acq := rest }) ∨
      (∃ r rest, s.acq = [] ∧ s.host = r :: rest ∧ step s = serveHost r { s with host := rest }) ∨
      (s.acq = [] ∧ s.host = [] ∧ step s = .next s) := by
  by_cases hacq : s.acq = []
  · by_cases hhost : s.host = []
    · exact .inr (.inr ⟨hacq, hhost, step_of_idle hacq hhost⟩)
    · obtain ⟨r, rest, hcons⟩ := List.exists_cons_of_ne_nil hhost
      exact .inr (.inl ⟨r, rest, hacq, hcons, step_of_request hacq hcons⟩)
  · obtain ⟨a, rest, hcons⟩ := List.exists_cons_of_ne_nil hacq
    exact .inl ⟨a, rest, hcons, step_of_act hcons⟩

theorem step_regStep {s t : State} (h : step s = .next t) : RegStep s t := by
  rcases step_cases s with ⟨a, rest, hacq, hs⟩ | ⟨r, rest, hacq, hhost, hs⟩ | ⟨-, -, hs⟩
  · exact runAct_regStep (q := { s with acq := rest }) hacq (hs.symm.trans h)
  · exact serveHost_regStep (q := { s with host := rest }) hacq hhost (hs.symm.trans h)
  · cases h.symm.trans hs
    exact .of_eq id rfl

/-! ## What follows for single registers -/

/-- Settles O13: a fault only sets bits, and GY.BEGIN only makes the driver Active. -/
theorem onlyResetClearsFaultBitsAndGyroState : Obligations.OnlyResetClearsFaultBitsAndGyroState := by
  unfold Obligations.OnlyResetClearsFaultBitsAndGyroState
  intro s t hreset h
  cases step_regStep h with
  | acqRegs | fill => exact ⟨BitVec.and_self, id⟩
  | writes q hw =>
    refine ⟨by simp [State.inShell, hw.flt], fun hactive => ?_⟩
    exact (hw.gyst s).elim (·.trans hactive) id
  | raised q c d =>
    refine ⟨?_, fun hactive => (raise_gyst s c d).trans hactive⟩
    change s.flt &&& (s.flt ||| c.mask) = s.flt
    ext j
    simp +contextual
  | reset q hr => exact absurd hr hreset

/-- Settles O11: no command and no action of ACQ writes `Cfg`, and the reset event keeps it. -/
theorem configurationIsNeverWritten : Obligations.ConfigurationIsNeverWritten := by
  unfold Obligations.ConfigurationIsNeverWritten
  intro s t h
  cases step_regStep h with
  | acqRegs | fill | reset => rfl
  | writes q hw => exact (hw.commandFrame s).cfg
  | raised q c d => exact raise_cfg s c d

/-- Settles O37: of the ways to change the registers only a burst's bytes and the reset event touch `SB`. -/
theorem onlyBurstsWriteTheSampleBuffer : Obligations.OnlyBurstsWriteTheSampleBuffer := by
  unfold Obligations.OnlyBurstsWriteTheSampleBuffer
  intro s t hreset hfill h
  cases step_regStep h with
  | acqRegs => exact ⟨rfl, rfl⟩
  | fill q hacq => exact absurd hacq (hfill _ _)
  | writes q hw => exact ⟨(hw.commandFrame s).sb, (hw.commandFrame s).sbcnt⟩
  | raised q c d => exact ⟨raise_sb s c d, raise_sbcnt s c d⟩
  | reset q hr => exact absurd hr hreset

/-! ## Reset (R270) -/

/-- Settles O12: each register is read off the reset state, and a step that serves the request is the event. -/
theorem resetPutsEveryRegisterAtItsResetValue : Obligations.ResetPutsEveryRegisterAtItsResetValue := by
  unfold Obligations.ResetPutsEveryRegisterAtItsResetValue
  intro s r hr
  have hsb (i : Fin 7) : (Vector.replicate 7 (none : Option Byte))[i] = none := Vector.getElem_replicate i.isLt
  rcases hr with rfl | rfl <;>
    exact ⟨rfl, rfl, rfl, rfl, rfl, rfl, rfl, hsb, rfl, rfl, rfl, rfl, rfl, rfl, rfl, rfl, rfl, rfl, rfl, rfl,
      fun rest hacq hhost => ⟨_, step_of_request hacq hhost, rfl, rfl, rfl, rfl⟩⟩

/-! ## The relations between the registers -/

theorem notNaN_none : notNaN none := nofun

/-- Rounding never gives a NaN: its largest magnitude is that of the infinity (R100 d, e). -/
theorem b32NaN_b32OfRat (q : Rat) : b32NaN (b32OfRat q) = false := by
  by_cases hq : q = 0
  · subst hq
    decide
  obtain ⟨hexp, hfrac⟩ := fields_ofNat ((if q < 0 then 2147483648 else 0) + magBits q.num.natAbs q.den)
  have hle := magBits_le_infBits q.num.natAbs q.den
  rw [b32OfRat_of_ne_zero hq, b32NaN, hexp, hfrac, Bool.and_eq_false_iff, beq_eq_false_iff_ne, bne_eq_false_iff_eq]
  unfold infBits at hle
  split <;> omega

theorem notNaN_fl (n : NumKind) (q : Rat) : notNaN (some (fl n q)) := by
  intro b hb
  cases n with
  | binary32 =>
    cases hb
    exact b32NaN_b32OfRat q
  | custom => cases hb

theorem notNaN_convert {r : F} (hr : notNaN (some r)) (n : NumKind) (g : Rat → Rat) :
    notNaN (some (convert n g r)) := by
  unfold convert
  split
  · exact hr
  · exact notNaN_fl n _

/-- A command's writes keep the relations between the registers, the sample apart, which they do not touch. -/
theorem Writes.resultInv {i : Instr} {s : State} {w : State → State} (hw : Writes s i w) (h : s.resultInv) :
    (w s).resultInv := by
  obtain ⟨hv0, hv1, hv2, hvb, hn0, hn1, hn2⟩ := h
  have hone : resvScalar.getLsbD 1 ≠ true := by decide
  have htwo : resvScalar.getLsbD 2 ≠ true := by decide
  cases hw with
  | scalar | sentinel =>
    exact ⟨fun _ => rfl, fun hv => absurd hv hone, fun hv => absurd hv htwo, hvb, notNaN_fl _ _, notNaN_none,
      notNaN_none⟩
  | bounds | event =>
    exact ⟨fun _ => rfl, fun _ => rfl, fun _ => rfl, hvb, notNaN_fl _ _, notNaN_fl _ _, notNaN_fl _ _⟩
  | check | configure => exact ⟨hv0, hv1, hv2, fun _ => rfl, hn0, hn1, hn2⟩
  | convert hi g hres0 =>
    exact ⟨fun _ => rfl, hv1, hv2, hvb, notNaN_convert (hres0 ▸ hn0) _ g, hn1, hn2⟩
  | crv => exact ⟨hv0, hv1, hv2, hvb, hn0, hn1, hn2⟩

theorem Writes.gyroInv {i : Instr} {s : State} {w : State → State} (hw : Writes s i w) (h : s.gyroInv) :
    (w s).gyroInv := by
  obtain ⟨hrange, hx, hy, hz, hevts⟩ := h
  cases hw with
  | event v0 v1 v2 x y z hticks =>
    exact ⟨hrange, rfl, rfl, rfl, fun _ => by simp [hticks]⟩
  | configure r => exact ⟨iff_of_true rfl rfl, hx, hy, hz, hevts⟩
  | scalar | sentinel | bounds | check | convert | crv => exact ⟨hrange, hx, hy, hz, hevts⟩

/-- A fault only clears valid bits. -/
theorem raise_resultInv (c : FaultCode) (d : Dest) {s : State} (h : s.resultInv) : (raise c d s).resultInv := by
  obtain ⟨hv0, hv1, hv2, hvb, hn0, hn1, hn2⟩ := h
  cases d with
  | res =>
    have hclear (j : Nat) : (raise c .res s).resv.getLsbD j ≠ true := by simp
    exact ⟨fun hv => absurd hv (hclear 0), fun hv => absurd hv (hclear 1), fun hv => absurd hv (hclear 2), hvb,
      hn0, hn1, hn2⟩
  | res0 =>
    have hbit (j : Nat) : (raise c .res0 s).resv.getLsbD j = (s.resv.getLsbD j && (0b110#3).getLsbD j) :=
      BitVec.getLsbD_and
    simp only [State.resultInv, hbit, Bool.and_eq_true]
    exact ⟨fun hv => hv0 hv.1, fun hv => hv1 hv.1, fun hv => hv2 hv.1, hvb, hn0, hn1, hn2⟩
  | resb => exact ⟨hv0, hv1, hv2, nofun, hn0, hn1, hn2⟩
  | none => exact ⟨hv0, hv1, hv2, hvb, hn0, hn1, hn2⟩

theorem raise_gyroInv (c : FaultCode) (d : Dest) {s : State} (h : s.gyroInv) : (raise c d s).gyroInv := by
  cases d <;> exact h

theorem State.sampleInv.of_frame {s t : State} (h : s.sampleInv) (hf : CommandFrame s t) : t.sampleInv := by
  unfold State.sampleInv
  rw [hf.sb, hf.sbcnt]
  exact h

theorem reset_regInv : State.reset.RegInv := by
  refine ⟨fun i => ?_, ⟨iff_of_false nofun nofun, rfl, rfl, rfl, nofun⟩,
    fun hv => absurd hv (by decide), fun hv => absurd hv (by decide), fun hv => absurd hv (by decide), nofun,
    notNaN_none, notNaN_none, notNaN_none⟩
  have hsb : State.reset.sb[i] = none := Vector.getElem_replicate i.isLt
  rw [hsb]
  exact iff_of_false nofun (Nat.not_lt_zero _)

/-- Settles O58: nothing holds a value after reset, and ACQ is idle with the count at 0. -/
theorem resetMeetsTheRegisterInvariant : Obligations.ResetMeetsTheRegisterInvariant := by
  unfold Obligations.ResetMeetsTheRegisterInvariant
  exact ⟨reset_regInv, Nat.zero_le _, .inl rfl⟩

/-- Settles O59: each way to change the registers keeps the three groups of relations. -/
theorem everyStepKeepsTheRegisterInvariant : Obligations.EveryStepKeepsTheRegisterInvariant := by
  unfold Obligations.EveryStepKeepsTheRegisterInvariant
  rintro s t ⟨hsample, hgyro, hresult⟩ h
  cases step_regStep h with
  | acqRegs q crv ticks pollcnt hticks =>
    obtain ⟨hrange, hx, hy, hz, hevts⟩ := hgyro
    exact ⟨hsample, ⟨hrange, hx, hy, hz, fun he => hticks (hevts he)⟩, hresult⟩
  | fill q hacq => exact ⟨actFill_sample _ _, hgyro, hresult⟩
  | writes q hw =>
    have hkept := hsample.of_frame (hw.commandFrame s)
    exact ⟨hkept, hw.gyroInv hgyro, hw.resultInv hresult⟩
  | raised q c d =>
    have hkept := hsample.of_frame (raise_commandFrame c d s)
    exact ⟨hkept, raise_gyroInv c d hgyro, raise_resultInv c d hresult⟩
  | reset => exact reset_regInv

end Sys2Proof.Machine
end

section
/-! Where a step stops, and what a host read gives (spec/10_state.md R21, spec/70_reset_and_hazards.md R277). -/

namespace Sys2Proof.Machine

/-! ## Reads of `novalue` -/

theorem hostView_gated {α : Type} (valid : Bool) (r : Option α) (k : α → RegVal) :
    (if valid then r.map k else none) = none ∨ ∃ a, (if valid then r.map k else none) = some (k a) := by
  cases valid <;> cases r <;> simp

theorem hostView_resb (s : State) : hostView .resb s = none ∨ ∃ b, hostView .resb s = some (.flag b) :=
  hostView_gated s.resbv s.resb .flag

theorem hostView_res0 (s : State) : hostView .res0 s = none ∨ ∃ f, hostView .res0 s = some (.number f) :=
  hostView_gated (resultValid s.resv 0) s.res0 .number

theorem hostView_res1 (s : State) : hostView .res1 s = none ∨ ∃ f, hostView .res1 s = some (.number f) :=
  hostView_gated (resultValid s.resv 1) s.res1 .number

theorem hostView_res2 (s : State) : hostView .res2 s = none ∨ ∃ f, hostView .res2 s = some (.number f) :=
  hostView_gated (resultValid s.resv 2) s.res2 .number

/-- A return value is missing only if a register it is read from gives none. -/
theorem returnValue_none {k : RetKind} {s : State} (h : returnValue k s = none) :
    ∃ r ∈ returnRegs k, hostView r s = none := by
  cases k with
  | unit => cases h
  | bool =>
    rcases hostView_resb s with hb | ⟨b, hb⟩
    · exact ⟨.resb, by simp [returnRegs], hb⟩
    · simp [returnValue, hb] at h
  | number =>
    rcases hostView_res0 s with h0 | ⟨x, h0⟩
    · exact ⟨.res0, by simp [returnRegs], h0⟩
    · simp [returnValue, h0] at h
  | event =>
    rcases hostView_res0 s with h0 | ⟨x, h0⟩
    · exact ⟨.res0, by simp [returnRegs], h0⟩
    rcases hostView_res1 s with h1 | ⟨y, h1⟩
    · exact ⟨.res1, by simp [returnRegs], h1⟩
    rcases hostView_res2 s with h2 | ⟨z, h2⟩
    · exact ⟨.res2, by simp [returnRegs], h2⟩
    cases he : s.evts with
    | none => exact ⟨.evts, by simp [returnRegs], by simp [hostView, he]⟩
    | some t => simp [returnValue, h0, h1, h2, he] at h
  | metadata =>
    rcases hostView_res0 s with h0 | ⟨x, h0⟩
    · exact ⟨.res0, by simp [returnRegs], h0⟩
    rcases hostView_res1 s with h1 | ⟨y, h1⟩
    · exact ⟨.res1, by simp [returnRegs], h1⟩
    rcases hostView_res2 s with h2 | ⟨z, h2⟩
    · exact ⟨.res2, by simp [returnRegs], h2⟩
    simp [returnValue, h0, h1, h2] at h

theorem hostView_acq (r : Reg) (s : State) (text : List Act) : hostView r { s with acq := text } = hostView r s := by
  cases r <;> rfl

theorem hostView_host (r : Reg) (s : State) (reqs : List HostReq) :
    hostView r { s with host := reqs } = hostView r s := by
  cases r <;> rfl

/-! ## Where a step stops -/

theorem runWord_next (w : Cmd) (s : State) : ∃ t, runWord w s = .next t := by
  cases hd : decode w with
  | error r => exact ⟨_, runWord_of_reject hd⟩
  | ok i =>
    rw [runWord_of_decode hd]
    cases exec_decides i s with
    | fails c _ hexec => exact ⟨_, (hexec s (.refl s)).2⟩
    | writes w _ hexec => exact ⟨_, (hexec s (.refl s)).2⟩

/-- An action of ACQ that must read a register that holds `novalue`. -/
def readsNovalue (a : Act) (s : State) : Prop :=
  ((∃ dev reg, a = .busWriteCrv dev reg) ∧ s.crv = none) ∨
    (a = .exitUnlessResb ∧ hostView .resb s = none) ∨
    (∃ k, a = .ret k ∧ ∃ r ∈ returnRegs k, hostView r s = none)

theorem runAct_stops (a : Act) (s : State) :
    (∃ t, runAct a s = .next t) ∨ (runAct a s = .fault .acqReadNovalue ∧ readsNovalue a s) := by
  cases a with
  | busWriteCrv dev reg =>
    cases hc : s.crv with
    | some v => exact .inl (by simp [runAct, hc])
    | none => exact .inr ⟨by simp only [runAct, hc], .inl ⟨⟨dev, reg, rfl⟩, hc⟩⟩
  | exitUnlessResb =>
    rcases hostView_resb s with hb | ⟨_ | _, hb⟩
    · exact .inr ⟨by simp only [runAct, hb], .inr (.inl ⟨rfl, hb⟩)⟩
    · exact .inl (by simp [runAct, hb])
    · exact .inl (by simp [runAct, hb])
  | ret k =>
    cases hr : returnValue k s with
    | some v => exact .inl (by simp [runAct, hr])
    | none => exact .inr ⟨by simp only [runAct, hr], .inr (.inr ⟨k, rfl, returnValue_none hr⟩)⟩
  | dp w =>
    obtain ⟨t, ht⟩ := runWord_next w s
    rcases actDp_next_cases w s with h | ⟨c, d, h⟩
    · exact .inl ⟨t, h.trans ht⟩
    · exact .inl ⟨_, h⟩
  | busCmd | busWrite | busRead | waitAvail | fill | loadCrv | preCheck | pollInit | pollRead | delay | latchTicks
  | join => exact .inl ⟨_, rfl⟩

theorem serveHost_stops (r : HostReq) (s : State) :
    (∃ t, serveHost r s = .next t) ∨
      ∃ reg, r = .read reg ∧ hostView reg s = none ∧ serveHost r s = .fault (.hostReadNovalue reg) := by
  cases r with
  | reset | start => exact .inl ⟨_, rfl⟩
  | command w => exact .inl (runWord_next w s)
  | read reg =>
    cases hv : hostView reg s with
    | some v => exact .inl (by simp [serveHost, hv])
    | none => exact .inr ⟨reg, rfl, hv, by simp only [serveHost, hv]⟩

/-- A step goes on, or stops at a read of a register that holds `novalue`, by the host or by ACQ (R21). -/
inductive StepStops (s : State) : Out → Prop
  | goesOn (t : State) : StepStops s (.next t)
  | hostRead {reg : Reg} {rest : List HostReq} (hacq : s.acq = []) (hhost : s.host = .read reg :: rest)
      (hview : hostView reg s = none) : StepStops s (.fault (.hostReadNovalue reg))
  | acqRead {a : Act} {rest : List Act} (hacq : s.acq = a :: rest) (hread : readsNovalue a s) :
      StepStops s (.fault .acqReadNovalue)

theorem step_stops (s : State) : StepStops s (step s) := by
  rcases step_cases s with ⟨a, rest, hacq, hs⟩ | ⟨r, rest, hacq, hhost, hs⟩ | ⟨-, -, hs⟩
  · rw [hs]
    rcases runAct_stops a { s with acq := rest } with ⟨t, ht⟩ | ⟨hstop, hread⟩
    · rw [ht]
      exact .goesOn t
    · rw [hstop]
      simp only [readsNovalue, hostView_acq] at hread
      exact .acqRead hacq hread
  · rw [hs]
    rcases serveHost_stops r { s with host := rest } with ⟨t, ht⟩ | ⟨reg, rfl, hview, hstop⟩
    · rw [ht]
      exact .goesOn t
    · rw [hstop]
      rw [hostView_host] at hview
      exact .hostRead hacq hhost hview
  · rw [hs]
    exact .goesOn s

theorem mem_registerTable_of_hostView_none {s : State} {r : Reg} (h : hostView r s = none) :
    (r, none) ∈ registerTable s := by
  rw [← h]
  exact mem_registerTable s r

/-- Settles O10: the two stops of a step, each with the register whose row of the table holds no value. -/
theorem stepStopsOnlyAtNovalueReads : Obligations.StepStopsOnlyAtNovalueReads := by
  unfold Obligations.StepStopsOnlyAtNovalueReads
  intro s
  have hstops := step_stops s
  refine ⟨fun r hs => ?_, fun reg hs => ?_, fun hs => ?_⟩
  · rw [hs] at hstops
    cases hstops
  · rw [hs] at hstops
    cases hstops with
    | hostRead hacq hhost hview => exact ⟨hacq, ⟨_, hhost⟩, mem_registerTable_of_hostView_none hview⟩
  · rw [hs] at hstops
    cases hstops with
    | @acqRead a rest hacq hread =>
      refine ⟨a, rest, hacq, ?_⟩
      rcases hread with hcrv | ⟨ha, hview⟩ | ⟨k, ha, r, hr, hview⟩
      · exact .inl hcrv
      · exact .inr (.inl ⟨ha, mem_registerTable_of_hostView_none hview⟩)
      · exact .inr (.inr ⟨k, ha, r, hr, mem_registerTable_of_hostView_none hview⟩)

/-! ## The host's reads (R277) -/

/-- Settles O57: a row of the table is what the host sees, and the step serves exactly that. -/
theorem hostReadGivesAValueOrStops : Obligations.HostReadGivesAValueOrStops := by
  unfold Obligations.HostReadGivesAValueOrStops
  refine ⟨fun s r => ⟨_, mem_registerTable s r⟩, fun s r rest hacq hhost => ?_⟩
  have hview {v : Option RegVal} (hv : (r, v) ∈ registerTable s) : hostView r { s with host := rest } = v :=
    (hostView_host r s rest).trans (hostView_of_mem_registerTable hv)
  rw [step_of_request hacq hhost]
  exact ⟨fun v hv => by simp only [serveHost, hview hv], fun hv => by simp only [serveHost, hview hv]⟩

end Sys2Proof.Machine
end

section
/-! The bounded poll: no step lets `POLLCNT` exceed 600, since every poll loop is entered through `POLLCNT <- 0`
(spec/10_state.md R34, spec/44_acquisition_sequences.md R213). -/

namespace Sys2Proof.Machine

/-! ## Texts whose poll loops are guarded -/

/-- A guarded text begins with a guarded loop, or with an action that is no turn of a loop. -/
theorem pollsGuarded_cons_cases {a : Act} {rest : List Act} (h : pollsGuarded (a :: rest) = true) :
    (∃ mask l, a = .pollInit ∧ rest = .pollRead mask :: l ∧ pollsGuarded l = true) ∨
      ((∀ mask, a ≠ .pollRead mask) ∧ pollsGuarded rest = true) := by
  rw [pollsGuarded.eq_def] at h
  split at h
  next heq => cases heq
  next mask l heq =>
    cases heq
    exact .inl ⟨mask, l, rfl, rfl, h⟩
  next => cases h
  next b l _ hread heq =>
    cases heq
    exact .inr ⟨fun mask hb => hread mask hb, h⟩

/-- Leaving an included text early does not enter a loop. -/
theorem pollsGuarded_afterReturn {l : List Act} (h : pollsGuarded l = true) : pollsGuarded (afterReturn l) = true := by
  induction l using pollsGuarded.induct with
  | case1 => rfl
  | case2 mask rest ih => exact ih h
  | case3 mask rest => cases h
  | case4 a rest hnot _ ih =>
    rcases pollsGuarded_cons_cases h with ⟨mask, l, rfl, rfl, -⟩ | ⟨-, hrest⟩
    · exact (hnot mask l rfl rfl).elim
    · cases a with
      | join => exact h
      | _ => exact ih hrest

theorem pollsGuarded_textOf (c : Cfg) (call : DriverCall) : pollsGuarded (textOf c call) = true := by
  cases call <;> rfl

theorem pollsGuarded_textToggle_append (c : Cfg) (l : List Act) : pollsGuarded (textToggle c ++ l) = pollsGuarded l :=
  rfl

/-! ## What an action outside a loop does to the text and the count -/

/-- `t` has the count of `s`, and its text is guarded if that of `s` is. -/
def KeepsPolls (s t : State) : Prop :=
  t.pollcnt = s.pollcnt ∧ (pollsGuarded s.acq = true → pollsGuarded t.acq = true)

theorem KeepsPolls.of_same_acq {s t : State} (hcnt : t.pollcnt = s.pollcnt) (hacq : t.acq = s.acq) : KeepsPolls s t :=
  ⟨hcnt, fun h => by rwa [hacq]⟩

theorem stopSequence_keepsPolls {s t : State} (hcnt : t.pollcnt = s.pollcnt) : KeepsPolls s (stopSequence t) :=
  ⟨hcnt, fun _ => rfl⟩

theorem runWord_commandFrame {w : Cmd} {s t : State} (h : runWord w s = .next t) : CommandFrame s t := by
  cases hd : decode w with
  | ok i => exact exec_commandFrame ((runWord_of_decode hd).symm.trans h)
  | error r =>
    cases h.symm.trans (runWord_of_reject hd)
    exact raise_commandFrame _ _ s

theorem withRead8_keepsPolls {dev : Dev} {reg : Byte} {k : Byte → State → State} {s : State}
    (hk : ∀ b u, KeepsPolls u (k b u)) : KeepsPolls s (withRead8 dev reg k s) :=
  withRead8_elim (fun b env bus => hk b { s with env := env, bus := bus })
    fun d env bus => stopSequence_keepsPolls (raise_pollcnt { s with env := env, bus := bus } .short d)

theorem runAct_keepsPolls {a : Act} {s t : State} (h : runAct a s = .next t) (hinit : a ≠ .pollInit)
    (hread : ∀ mask, a ≠ .pollRead mask) : KeepsPolls s t := by
  cases a with
  | pollInit => exact absurd rfl hinit
  | pollRead mask => exact absurd rfl (hread mask)
  | busRead dev reg n wait =>
    cases h
    cases wait <;> exact ⟨rfl, id⟩
  | waitAvail =>
    cases h
    refine ⟨rfl, fun hg => ?_⟩
    simp only [actWaitAvail]
    split <;> exact hg
  | loadCrv dev reg =>
    cases h
    exact withRead8_keepsPolls fun b u => ⟨rfl, id⟩
  | preCheck mask effective =>
    cases h
    refine withRead8_keepsPolls fun b u => ?_
    split <;> exact ⟨rfl, id⟩
  | exitUnlessResb =>
    simp only [runAct] at h
    split at h <;> cases h
    · exact ⟨rfl, id⟩
    · exact ⟨rfl, pollsGuarded_afterReturn⟩
  | busWriteCrv dev reg =>
    simp only [runAct] at h
    split at h <;> cases h
    exact ⟨rfl, id⟩
  | ret k =>
    simp only [runAct] at h
    split at h <;> cases h
    exact ⟨rfl, fun _ => rfl⟩
  | dp w =>
    rcases actDp_next_cases w s with hrun | ⟨c, d, hstop⟩
    · have hf := runWord_commandFrame (hrun.symm.trans h)
      exact .of_same_acq hf.pollcnt hf.acq
    · cases h.symm.trans hstop
      exact stopSequence_keepsPolls (raise_pollcnt s c d)
  | busCmd | busWrite | fill | delay | latchTicks | join =>
    cases h
    exact ⟨rfl, id⟩

/-! ## The invariant -/

/-- A turn of the loop with the count below 600: the loop goes on, or is left with the count at most 600. -/
theorem actPollRead_pollInv {mask : Byte} {s : State} (hlt : s.pollcnt.toNat < 600)
    (hguard : pollsGuarded s.acq = true) : (actPollRead mask s).PollInv := by
  have hnext : (s.pollcnt + 1).toNat = s.pollcnt.toNat + 1 := by
    rw [BitVec.toNat_add_of_lt (by simp; omega)]
    rfl
  refine withRead8_elim (fun b env bus => ?_) fun d env bus => ?_
  · split
    · exact ⟨hlt.le, .inl hguard⟩
    · split
      next hmax => exact ⟨hmax.le, .inl (pollsGuarded_afterReturn hguard)⟩
      next hmax =>
        have hstill : (s.pollcnt + 1).toNat < 600 := by
          unfold Config.pollMax at hmax
          change (s.pollcnt + 1).toNat ≠ 600 at hmax
          omega
        exact ⟨hstill.le, .inr ⟨hstill, mask, s.acq, hguard, .inr ⟨_, rfl⟩⟩⟩
  · exact ⟨by rw [stopSequence_pollcnt, raise_pollcnt]; exact hlt.le, .inl rfl⟩

theorem runAct_pollInv {a : Act} {s t : State} (hle : s.pollcnt.toNat ≤ 600)
    (hguard : pollsGuarded (a :: s.acq) = true) (h : runAct a s = .next t) : t.PollInv := by
  rcases pollsGuarded_cons_cases hguard with ⟨mask, l, rfl, hacq, hl⟩ | ⟨hread, hrest⟩
  · cases h
    exact ⟨Nat.zero_le _, .inr ⟨(by decide : 0 < 600), mask, l, hl, .inl hacq⟩⟩
  · by_cases hinit : a = .pollInit
    · subst hinit
      cases h
      exact ⟨Nat.zero_le _, .inl hrest⟩
    · obtain ⟨hcnt, hkeep⟩ := runAct_keepsPolls h hinit hread
      exact ⟨hcnt ▸ hle, .inl (hkeep hrest)⟩

theorem serveHost_pollInv {r : HostReq} {s t : State} (hle : s.pollcnt.toNat ≤ 600) (hacq : s.acq = [])
    (h : serveHost r s = .next t) : t.PollInv := by
  have hidle : pollsGuarded s.acq = true := by rw [hacq]; rfl
  cases r with
  | reset =>
    cases h
    exact ⟨Nat.zero_le _, .inl rfl⟩
  | start c =>
    cases h
    exact ⟨hle, .inl (pollsGuarded_textOf s.cfg c)⟩
  | command w =>
    have hf := runWord_commandFrame h
    exact ⟨hf.pollcnt ▸ hle, .inl (hf.acq ▸ hidle)⟩
  | read reg =>
    simp only [serveHost] at h
    split at h <;> cases h
    exact ⟨hle, .inl hidle⟩

/-- Settles O60: outside a loop the text stays guarded, and a turn of a loop starts with the count below 600. -/
theorem everyStepKeepsThePollBound : Obligations.EveryStepKeepsThePollBound := by
  unfold Obligations.EveryStepKeepsThePollBound
  rintro s t ⟨hle, hinv⟩ h
  rcases step_cases s with ⟨a, rest, hacq, hs⟩ | ⟨r, rest, hacq, -, hs⟩ | ⟨-, -, hs⟩
  · rw [hs] at h
    rw [hacq] at hinv
    rcases hinv with hguard | ⟨hlt, mask, l, hl, htext | ⟨ms, htext⟩⟩
    · exact runAct_pollInv (s := { s with acq := rest }) hle hguard h
    · cases htext
      cases h
      exact actPollRead_pollInv hlt hl
    · cases htext
      cases h
      exact ⟨hle, .inr ⟨hlt, mask, l, hl, .inl rfl⟩⟩
  · exact serveHost_pollInv (s := { s with host := rest }) hle hacq (hs.symm.trans h)
  · cases h.symm.trans hs
    exact ⟨hle, hinv⟩

end Sys2Proof.Machine
end

section
/-! The RawAxes are never read back: a step from a state with other RawAxes ends in the same state but for them
(spec/10_state.md R26). -/

namespace Sys2Proof.Machine

/-- `s` with other RawAxes. -/
def State.withRaw (x y z : Option (BitVec 16)) (s : State) : State := { s with rawx := x, rawy := y, rawz := z }

/-- Where the first outcome is a next state, the second is one that differs from it at most in the RawAxes. -/
def SameButRaw (o o' : Out) : Prop := ∀ t, o = .next t → ∃ t', o' = .next t' ∧ t'.eraseRaw = t.eraseRaw

theorem SameButRaw.next {t t' : State} (h : t'.eraseRaw = t.eraseRaw) : SameButRaw (.next t) (.next t') := by
  intro u hu
  cases hu
  exact ⟨t', rfl, h⟩

theorem SameButRaw.fault (r : Fault) (o : Out) : SameButRaw (.fault r) o := by
  intro t ht
  cases ht

theorem SameButRaw.of_withRaw {x y z : Option (BitVec 16)} {t t' : State} (h : t' = t.withRaw x y z) :
    SameButRaw (.next t) (.next t') :=
  .next (by rw [h]; rfl)

theorem SameButRaw.thenStop {o o' : Out} (h : SameButRaw o o') : SameButRaw (thenStop o) (thenStop o') := by
  cases o with
  | next t =>
    obtain ⟨t', rfl, ht⟩ := h t rfl
    have hstop : (stopSequence t').eraseRaw = (stopSequence t).eraseRaw := congrArg stopSequence ht
    exact .next hstop
  | fault r => exact .fault r _
  | refused r =>
    intro t ht
    cases ht

section WithRaw
variable (x y z : Option (BitVec 16))

/-! ## Commands -/

theorem sameReads_withRaw (s : State) : SameReads s (s.withRaw x y z) :=
  ⟨rfl, rfl, rfl, rfl, rfl, rfl, rfl, rfl, rfl⟩

theorem raise_withRaw (c : FaultCode) (d : Dest) (s : State) :
    raise c d (s.withRaw x y z) = (raise c d s).withRaw x y z := by
  cases d <;> rfl

/-- GY.EVENT writes the RawAxes, every other command leaves them. -/
theorem Writes.eraseRaw_withRaw {i : Instr} {s : State} {w : State → State} (hw : Writes s i w) :
    (w (s.withRaw x y z)).eraseRaw = (w s).eraseRaw := by
  cases hw <;> rfl

theorem exec_sameButRaw (i : Instr) (s : State) : SameButRaw (exec i s) (exec i (s.withRaw x y z)) := by
  have hsame := sameReads_withRaw x y z s
  cases exec_decides i s with
  | fails c _ hexec =>
    obtain ⟨-, he⟩ := hexec s (.refl s)
    obtain ⟨-, he'⟩ := hexec _ hsame
    rw [he, he', raise_withRaw]
    exact .next rfl
  | writes w hw hexec =>
    obtain ⟨-, he⟩ := hexec s (.refl s)
    obtain ⟨-, he'⟩ := hexec _ hsame
    rw [he, he']
    exact .next (hw.eraseRaw_withRaw x y z)

theorem runWord_sameButRaw (w : Cmd) (s : State) : SameButRaw (runWord w s) (runWord w (s.withRaw x y z)) := by
  cases hd : decode w with
  | ok i =>
    rw [runWord_of_decode hd, runWord_of_decode hd]
    exact exec_sameButRaw x y z i s
  | error r =>
    rw [runWord_of_reject hd, runWord_of_reject hd, raise_withRaw]
    exact .next rfl

theorem raisedBy_withRaw (i : Instr) (s : State) : raisedBy i (s.withRaw x y z) = raisedBy i s := by
  have hsame := sameReads_withRaw x y z s
  cases exec_decides i s with
  | fails c _ hexec => exact (hexec _ hsame).1.trans (hexec s (.refl s)).1.symm
  | writes w _ hexec => exact (hexec _ hsame).1.trans (hexec s (.refl s)).1.symm

theorem actDp_sameButRaw (w : Cmd) (s : State) : SameButRaw (actDp w s) (actDp w (s.withRaw x y z)) := by
  have hrun := runWord_sameButRaw x y z w s
  unfold actDp
  cases decode w with
  | ok i =>
    simp only [raisedBy_withRaw]
    cases raisedBy i s with
    | none => exact hrun
    | some c => exact hrun.thenStop
  | error r => exact hrun.thenStop

/-! ## Actions of ACQ -/

theorem busRead8_withRaw (dev : Dev) (reg : Byte) (s : State) :
    busRead8 dev reg (s.withRaw x y z) = ((busRead8 dev reg s).1, (busRead8 dev reg s).2.withRaw x y z) := by
  simp only [busRead8, show (s.withRaw x y z).env = s.env from rfl]
  split <;> rfl

theorem withRead8_withRaw {dev : Dev} {reg : Byte} {k k' : Byte → State → State} {s : State}
    (hk : ∀ b u, k' b (u.withRaw x y z) = (k b u).withRaw x y z) :
    withRead8 dev reg k' (s.withRaw x y z) = (withRead8 dev reg k s).withRaw x y z := by
  unfold withRead8
  rw [busRead8_withRaw]
  rcases busRead8 dev reg s with ⟨_ | b, u⟩
  · exact congrArg stopSequence (raise_withRaw x y z .short (destOfText u.acq) u)
  · exact hk b u

theorem actPreCheck_withRaw (mask : Byte) (effective : Bool) (s : State) :
    actPreCheck mask effective (s.withRaw x y z) = (actPreCheck mask effective s).withRaw x y z := by
  refine withRead8_withRaw x y z fun b u => ?_
  split <;> rfl

theorem actPollRead_withRaw (mask : Byte) (s : State) :
    actPollRead mask (s.withRaw x y z) = (actPollRead mask s).withRaw x y z := by
  refine withRead8_withRaw x y z fun b u => ?_
  simp only [show (u.withRaw x y z).pollcnt = u.pollcnt from rfl]
  split
  · rfl
  · split <;> rfl

theorem returnValue_withRaw (k : RetKind) (s : State) : returnValue k (s.withRaw x y z) = returnValue k s := by
  cases k <;> rfl

theorem runAct_sameButRaw (a : Act) (s : State) : SameButRaw (runAct a s) (runAct a (s.withRaw x y z)) := by
  cases a with
  | dp w => exact actDp_sameButRaw x y z w s
  | loadCrv dev reg => exact .of_withRaw (withRead8_withRaw x y z fun b u => rfl)
  | preCheck mask effective => exact .of_withRaw (actPreCheck_withRaw x y z mask effective s)
  | pollRead mask => exact .of_withRaw (actPollRead_withRaw x y z mask s)
  | busWriteCrv dev reg =>
    simp only [runAct, show (s.withRaw x y z).crv = s.crv from rfl]
    cases s.crv with
    | some v => exact .next rfl
    | none => exact .fault _ _
  | exitUnlessResb =>
    simp only [runAct, show hostView .resb (s.withRaw x y z) = hostView .resb s from rfl]
    split
    · exact .next rfl
    · exact .next rfl
    · exact .fault _ _
  | ret k =>
    simp only [runAct, returnValue_withRaw]
    cases returnValue k s with
    | some r => exact .next rfl
    | none => exact .fault _ _
  | busCmd | busWrite | busRead | waitAvail | fill | pollInit | delay | latchTicks | join => exact .next rfl

/-! ## Requests of the host, and steps -/

theorem hostView_withRaw {reg : Reg} (hreg : reg ≠ .rawx ∧ reg ≠ .rawy ∧ reg ≠ .rawz) (s : State) :
    hostView reg (s.withRaw x y z) = hostView reg s := by
  obtain ⟨hx, hy, hz⟩ := hreg
  cases reg
  case rawx => exact absurd rfl hx
  case rawy => exact absurd rfl hy
  case rawz => exact absurd rfl hz
  all_goals rfl

theorem serveHost_sameButRaw {r : HostReq} (hr : r ≠ .read .rawx ∧ r ≠ .read .rawy ∧ r ≠ .read .rawz) (s : State) :
    SameButRaw (serveHost r s) (serveHost r (s.withRaw x y z)) := by
  cases r with
  | reset | start => exact .next rfl
  | command w => exact runWord_sameButRaw x y z w s
  | read reg =>
    simp only [ne_eq, HostReq.read.injEq] at hr
    simp only [serveHost, hostView_withRaw x y z hr]
    cases hostView reg s with
    | some v => exact .next rfl
    | none => exact .fault _ _

theorem step_sameButRaw {s : State} (hread : ¬ s.rawReadNext) : SameButRaw (step s) (step (s.withRaw x y z)) := by
  rcases step_cases s with ⟨a, rest, hacq, hs⟩ | ⟨r, rest, hacq, hhost, hs⟩ | ⟨hacq, hhost, hs⟩
  · rw [hs, step_of_act (s := s.withRaw x y z) hacq]
    exact runAct_sameButRaw x y z a { s with acq := rest }
  · rw [hs, step_of_request (s := s.withRaw x y z) hacq hhost]
    refine serveHost_sameButRaw x y z ⟨?_, ?_, ?_⟩ { s with host := rest }
    · rintro rfl
      exact hread ⟨hacq, rest, .inl hhost⟩
    · rintro rfl
      exact hread ⟨hacq, rest, .inr (.inl hhost)⟩
    · rintro rfl
      exact hread ⟨hacq, rest, .inr (.inr hhost)⟩
  · rw [hs, step_of_idle (s := s.withRaw x y z) hacq hhost]
    exact .next rfl

end WithRaw

/-- Settles O38: no command reads them, no action of ACQ does, and of the host's requests only a read of one. -/
theorem rawAxesAreNeverReadBack : Obligations.RawAxesAreNeverReadBack := by
  unfold Obligations.RawAxesAreNeverReadBack
  intro s t x y z hread h
  exact step_sameButRaw x y z hread t h

end Sys2Proof.Machine
end

section
/-! Bytes of a sample that no field covers: a command runs the same whatever they hold (spec/20_memory.md R53,
spec/30_encoding.md R86 to R91). -/

namespace Sys2Proof.Machine

/-- `s` with another byte in the cell `SB[j]`. -/
def State.setByte (j : Fin 7) (v : Byte) (s : State) : State := { s with sb := s.sb.set j (some v) }

variable {s : State} {j : Fin 7} {v b : Byte}

theorem sample_setByte_self : sample j (s.setByte j v) = .ok v :=
  sample_of_some (Vector.getElem_set_self j.isLt)

theorem sample_setByte_of_ne {i : Fin 7} (h : i ≠ j) : sample i (s.setByte j v) = sample i s :=
  congrArg need (Vector.getElem_set_ne j.isLt i.isLt fun hji => h (Fin.ext hji.symm))

theorem raise_setByte (c : FaultCode) (d : Dest) : raise c d (s.setByte j v) = (raise c d s).setByte j v := by
  cases d <;> rfl

/-! ## Commands that commute with the change -/

/-- A read with the same result on both sides, before what follows it. -/
theorem bind_map_of_eq {α : Type} {r r' : Except FaultCode α} {k k' : α → Except FaultCode State}
    {f : State → State} (hr : r' = r) (hk : ∀ a, k' a = (k a).map f) : (r' >>= k') = (r >>= k).map f := by
  subst hr
  cases r' with
  | error c => rfl
  | ok a => exact hk a

/-- The changed byte is read last, and its value does not depend on the change. -/
theorem scalar_of_changed_byte {g : Byte → Rat} (hb : s.sb[j] = some b) (hg : g v = g b) :
    (sample j (s.setByte j v) >>= fun x => pure (writeScalar (g x) (s.setByte j v))) =
      (sample j s >>= fun x => pure (writeScalar (g x) s)).map (State.setByte j v) := by
  rw [sample_setByte_self, sample_of_some hb]
  exact congrArg (fun q => Except.ok (writeScalar q (s.setByte j v))) hg

/-- A command that commutes with the change ends in the same state but for the byte, faulting or not. -/
theorem exec_setByte {i : Instr} {t : State} (hc : command i (s.setByte j v) = (command i s).map (State.setByte j v))
    (h : exec i s = .next t) : exec i (s.setByte j v) = .next { t with sb := s.sb.set j (some v) } := by
  rw [← (exec_commandFrame h).sb]
  rw [exec_eq_finish] at h ⊢
  rw [hc]
  rcases finish_cases h with hr | ⟨c, hr, rfl⟩
  · rw [hr]
    rfl
  · rw [hr]
    exact congrArg Host.Outcome.next (raise_setByte c (destOf i))

/-! ## The bytes no field covers -/

/-- The third byte of a humidity or temperature sample is its checksum (R86). -/
theorem command_ht_setByte {i : Instr} (hi : i ∈ [Instr.htTemp, .htHum]) (v : Byte) (s : State) :
    command i (s.setByte 2 v) = (command i s).map (State.setByte 2 v) := by
  simp only [List.mem_cons, List.not_mem_nil, or_false] at hi
  rcases hi with rfl | rfl <;>
    exact bind_map_of_eq rfl fun _ => bind_map_of_eq (sample_setByte_of_ne (by decide)) fun _ =>
      bind_map_of_eq (sample_setByte_of_ne (by decide)) fun _ => rfl

/-- The first byte of a gyroscope sample is its status (R88). -/
theorem command_gyEvent_setByte (v : Byte) (s : State) :
    command .gyEvent (s.setByte 0 v) = (command .gyEvent s).map (State.setByte 0 v) := by
  have hread {i : Fin 7} (hi : i ≠ 0) {k k' : Byte → Except FaultCode State}
      (hk : ∀ b, k' b = (k b).map (State.setByte 0 v)) :
      (sample i (s.setByte 0 v) >>= k') = (sample i s >>= k).map (State.setByte 0 v) :=
    bind_map_of_eq (sample_setByte_of_ne hi) hk
  refine bind_map_of_eq rfl fun _ => bind_map_of_eq rfl fun _ => bind_map_of_eq rfl fun _ => ?_
  refine hread (by decide) fun _ => hread (by decide) fun _ => hread (by decide) fun _ => ?_
  refine hread (by decide) fun _ => hread (by decide) fun _ => hread (by decide) fun _ => ?_
  exact bind_map_of_eq rfl fun _ => rfl

/-! ## The bits no field covers -/

/-- The low nibble of the third byte is no part of a pressure (R89). -/
theorem presValue_of_high_nibble (b0 b1 : Byte) (h : b.toNat / 16 = v.toNat / 16) :
    presValue b0 b1 v = presValue b0 b1 b := by
  have hint : presInt b0 b1 v = presInt b0 b1 b := by
    rw [presInt_eq, presInt_eq]
    omega
  rw [presValue, presValue, hint, presFrac_eq, presFrac_eq, h]

/-- The low nibble of the second byte is no part of a barometric temperature (R91). -/
theorem baTempValue_of_high_nibble (b0 : Byte) (h : b.toNat / 16 = v.toNat / 16) :
    baTempValue b0 v = baTempValue b0 b := by
  have hpattern : tempPattern b0 v = tempPattern b0 b := by
    apply BitVec.eq_of_toNat_eq
    rw [tempPattern_toNat, tempPattern_toNat, h]
  rw [baTempValue, baTempValue, hpattern]

/-- Of the third byte an altitude has the nibble `ALT_FRAC_HIGH` names (R90). -/
theorem altValue_of_nibble (fracHigh : Bool) (b0 b1 : Byte)
    (h : if fracHigh then b.toNat / 16 = v.toNat / 16 else b.toNat % 16 = v.toNat % 16) :
    altValue fracHigh b0 b1 v = altValue fracHigh b0 b1 b := by
  have hfrac : altFrac fracHigh v = altFrac fracHigh b := by
    cases fracHigh with
    | true => exact (highNibble_eq v).trans (h.symm.trans (highNibble_eq b).symm)
    | false => exact (lowNibble_eq v).trans (h.symm.trans (lowNibble_eq b).symm)
  rw [altValue, altValue, hfrac]

theorem command_baPres_setByte (hb : s.sb[2] = some b) (h : b.toNat / 16 = v.toNat / 16) :
    command .baPres (s.setByte 2 v) = (command .baPres s).map (State.setByte 2 v) :=
  bind_map_of_eq rfl fun _ => bind_map_of_eq (sample_setByte_of_ne (by decide)) fun b0 =>
    bind_map_of_eq (sample_setByte_of_ne (by decide)) fun b1 =>
      scalar_of_changed_byte hb (presValue_of_high_nibble b0 b1 h)

theorem command_baAlt_setByte (hb : s.sb[2] = some b)
    (h : if s.cfg.altFracHigh then b.toNat / 16 = v.toNat / 16 else b.toNat % 16 = v.toNat % 16) :
    command .baAlt (s.setByte 2 v) = (command .baAlt s).map (State.setByte 2 v) :=
  bind_map_of_eq rfl fun _ => bind_map_of_eq (sample_setByte_of_ne (by decide)) fun b0 =>
    bind_map_of_eq (sample_setByte_of_ne (by decide)) fun b1 =>
      scalar_of_changed_byte hb (altValue_of_nibble s.cfg.altFracHigh b0 b1 h)

theorem command_baTemp_setByte (hb : s.sb[1] = some b) (h : b.toNat / 16 = v.toNat / 16) :
    command .baTemp (s.setByte 1 v) = (command .baTemp s).map (State.setByte 1 v) :=
  bind_map_of_eq rfl fun _ => bind_map_of_eq (sample_setByte_of_ne (by decide)) fun b0 =>
    scalar_of_changed_byte hb (baTempValue_of_high_nibble b0 h)

/-- Settles O40: each of the commands commutes with a change of the bits its layout does not cover. -/
theorem uncoveredSampleBitsAreIgnored : Obligations.UncoveredSampleBitsAreIgnored := by
  unfold Obligations.UncoveredSampleBitsAreIgnored
  intro s t v b
  refine ⟨fun i hi h => ?_, fun h => ?_, fun hb hn h => ?_, fun hb hn h => ?_, fun hb hn h => ?_⟩
  · exact exec_setByte (j := 2) (command_ht_setByte hi v s) h
  · exact exec_setByte (j := 0) (command_gyEvent_setByte v s) h
  · exact exec_setByte (j := 2) (command_baPres_setByte hb hn) h
  · exact exec_setByte (j := 1) (command_baTemp_setByte hb hn) h
  · exact exec_setByte (j := 2) (command_baAlt_setByte hb hn) h

end Sys2Proof.Machine
end

section
/-! Runs of several steps, and the bus primitives that read: the burst, its wait for data, and the one-byte read
(spec/20_memory.md R62 to R66). -/

namespace Sys2Proof.Machine

/-! ## Runs -/

theorem run_succ_of_step {s t : State} (h : step s = .next t) (k : Nat) :
    Host.Core.run Sys2Proof.core (k + 1) s = Host.Core.run Sys2Proof.core k t := by
  simp only [Host.Core.run, show Sys2Proof.core.step s = .next t from h]

/-- A state that steps to itself stays for ever. -/
theorem run_of_step_self {s : State} (h : step s = .next s) (k : Nat) : Host.Core.run Sys2Proof.core k s = .next s := by
  induction k with
  | zero => rfl
  | succ k ih => exact (run_succ_of_step h k).trans ih

/-! ## The wait for data (R65) -/

theorem drawAvail_never {e : Env} {ws : List (Option Nat)} (h : e.waits = none :: ws) : drawAvail e = (false, e) := by
  rw [drawAvail, h]

theorem drawAvail_now {e : Env} {ws : List (Option Nat)} (h : e.waits = some 0 :: ws) :
    drawAvail e = (true, { e with waits := ws }) := by
  rw [drawAvail, h]

theorem drawAvail_later {e : Env} {m : Nat} {ws : List (Option Nat)} (h : e.waits = some (m + 1) :: ws) :
    drawAvail e = (false, { e with waits := some m :: ws }) := by
  rw [drawAvail, h]

section Wait
variable {s : State} {rest : List Act} (hacq : s.acq = .waitAvail :: rest)
include hacq

theorem step_waitAvail : step s = .next { s with
    env := (drawAvail s.env).2, acq := if (drawAvail s.env).1 then rest else s.acq } := by
  rw [step_of_act hacq, hacq]
  rfl

/-- While the answer is never true, ACQ does not leave the wait. -/
theorem step_waitAvail_never {ws : List (Option Nat)} (hwaits : s.env.waits = none :: ws) : step s = .next s := by
  rw [step_waitAvail hacq, drawAvail_never hwaits]
  rfl

end Wait

/-- After `m` answers false and one true the wait is over. -/
theorem run_waitAvail {m : Nat} {ws : List (Option Nat)} {rest : List Act} (k : Nat) {s : State}
    (hacq : s.acq = .waitAvail :: rest) (hwaits : s.env.waits = some m :: ws) :
    Host.Core.run Sys2Proof.core (k + (m + 1)) s =
      Host.Core.run Sys2Proof.core k { s with acq := rest, env := { s.env with waits := ws } } := by
  induction m generalizing s with
  | zero =>
    refine run_succ_of_step ?_ k
    rw [step_waitAvail hacq, drawAvail_now hwaits]
    rfl
  | succ m ih =>
    have hstep : step s = .next { s with env := { s.env with waits := some m :: ws } } := by
      rw [step_waitAvail hacq, drawAvail_later hwaits]
      rfl
    exact (run_succ_of_step hstep _).trans (ih hacq rfl)

/-- Settles O46: an answer false leaves ACQ in the wait, and one that is never true leaves the state as it is. -/
theorem waitForDataHasNoBound : Obligations.WaitForDataHasNoBound := by
  unfold Obligations.WaitForDataHasNoBound
  refine fun s rest hacq => ⟨fun ws hwaits => run_of_step_self (step_waitAvail_never hacq hwaits), ?_⟩
  exact ⟨_, step_waitAvail hacq, rfl, fun hfalse => by simp [hfalse], fun htrue => by simp [htrue]⟩

/-! ## The burst (R62) -/

/-- The address phase of a burst that names a register, and nothing of one that does not (R62). -/
def readPhase (c : Cfg) (dev : Dev) : Option Byte → List BusEvent
  | some r => addressPhase c dev r
  | none => []

/-- The burst is requested; what remains is the wait, if any, and the bytes. -/
theorem actBusRead_fixed {s : State} {dev : Dev} {n k : Nat} {ks : List Nat} (reg : Option Byte) (wait : Bool)
    (hcounts : s.env.counts = k :: ks) :
    actBusRead dev reg n wait s = { s with
      acq := (if wait then [.waitAvail] else []) ++ .fill k :: s.acq
      env := { s.env with counts := ks }
      bus := s.bus ++ readPhase s.cfg dev reg ++ [.requestRead (devAddr s.cfg dev) n] } := by
  unfold actBusRead
  rw [drawCount_fixed hcounts, List.append_assoc]
  cases reg <;> rfl

/-- The bytes of a burst, fixed in advance, arrive. -/
theorem actFill_fixed {s : State} {k : Nat} {bytes more : List Byte} (hbytes : s.env.bytes = bytes ++ more)
    (hlen : bytes.length = min k 7) :
    actFill k s = { s with
      sb := Vector.ofFn fun i => bytes[i.val]?, sbcnt := BitVec.ofNat 3 (min k 7)
      env := { s.env with bytes := more }, bus := s.bus ++ List.replicate (min k 7) .read } := by
  simp only [actFill, emit, ← hlen, drawBytes_fixed bytes more s.env hbytes]

theorem step_fill {s : State} {k : Nat} {rest : List Act} {bytes more : List Byte} (hacq : s.acq = .fill k :: rest)
    (hbytes : s.env.bytes = bytes ++ more) (hlen : bytes.length = min k 7) :
    step s = .next { s with
      acq := rest, sb := Vector.ofFn fun i => bytes[i.val]?, sbcnt := BitVec.ofNat 3 (min k 7)
      env := { s.env with bytes := more }, bus := s.bus ++ List.replicate (min k 7) .read } := by
  rw [step_of_act hacq, runAct, actFill_fixed (s := { s with acq := rest }) hbytes hlen]

section Burst
variable {s : State} {dev : Dev} {reg : Option Byte} {n k m : Nat} {wait : Bool} {rest : List Act} {ks : List Nat}
  {ws : List (Option Nat)} (hacq : s.acq = .busRead dev reg n wait :: rest) (hcounts : s.env.counts = k :: ks)
  (hwaits : wait = true → s.env.waits = some m :: ws)
include hacq hcounts hwaits

/-- The request, and the wait if there is one, leave a burst before its bytes. -/
theorem run_busRead (j : Nat) :
    Host.Core.run Sys2Proof.core (j + if wait then m + 2 else 1) s = Host.Core.run Sys2Proof.core j { s with
      acq := .fill k :: rest
      env := { s.env with counts := ks, waits := if wait then ws else s.env.waits }
      bus := s.bus ++ readPhase s.cfg dev reg ++ [.requestRead (devAddr s.cfg dev) n] } := by
  have hrequest : step s = .next (actBusRead dev reg n wait { s with acq := rest }) := step_of_act hacq
  rw [actBusRead_fixed reg wait (s := { s with acq := rest }) hcounts] at hrequest
  cases wait with
  | true =>
    refine (run_succ_of_step hrequest (j + (m + 1))).trans (run_waitAvail j ?_ ?_)
    · rfl
    · exact hwaits rfl
  | false => exact run_succ_of_step hrequest j

/-- A whole burst: the request, the wait if there is one, and the bytes. -/
theorem run_burst {bytes more : List Byte} (hbytes : s.env.bytes = bytes ++ more) (hlen : bytes.length = min k 7)
    (j : Nat) :
    Host.Core.run Sys2Proof.core (j + if wait then m + 3 else 2) s = Host.Core.run Sys2Proof.core j { s with
      acq := rest, sb := Vector.ofFn fun i => bytes[i.val]?, sbcnt := BitVec.ofNat 3 (min k 7)
      env := { s.env with counts := ks, bytes := more, waits := if wait then ws else s.env.waits }
      bus := s.bus ++ readPhase s.cfg dev reg ++ [.requestRead (devAddr s.cfg dev) n] ++
        List.replicate (min k 7) .read } := by
  have hsteps : (j + if wait then m + 3 else 2) = j + 1 + if wait then m + 2 else 1 := by
    split <;> omega
  rw [hsteps]
  refine (run_busRead hacq hcounts hwaits (j + 1)).trans (run_succ_of_step (step_fill ?_ ?_ hlen) j)
  · rfl
  · exact hbytes

end Burst

/-- Settles O45: the state after the whole burst. -/
theorem busReadFillsTheSampleBuffer : Obligations.BusReadFillsTheSampleBuffer := by
  unfold Obligations.BusReadFillsTheSampleBuffer
  intro s dev reg n wait rest k m ks bytes more ws hacq hcounts hbytes hlen hwaits
  have hrun := run_burst hacq hcounts (fun _ => hwaits) hbytes hlen 0
  rw [Nat.zero_add] at hrun
  refine ⟨_, hrun, ?_, ?_, fun i => ?_⟩
  · cases reg <;> simp only [readPhase] <;> rfl
  · exact (BitVec.toNat_ofNat _ _).trans (Nat.mod_eq_of_lt (by omega))
  · exact Vector.getElem_ofFn i.isLt

/-! ## The one-byte read (R66) -/

/-- A one-byte read that does not deliver one byte: SHORT, and the end of the sequence (R201). -/
theorem withRead8_short {dev : Dev} {reg : Byte} {f : Byte → State → State} {s : State} {k : Nat} {ks : List Nat}
    (hcounts : s.env.counts = k :: ks) (hk : k ≠ 1) :
    withRead8 dev reg f s = stopSequence (raise .short (destOfText s.acq)
      { emit (addressPhase s.cfg dev reg ++ [.requestRead (devAddr s.cfg dev) 1]) s with
        env := { s.env with counts := ks } }) := by
  rw [withRead8, busRead8_short hcounts hk]
  rfl

/-- The three places of a one-byte read: the latch of a control register, the pre-check and the poll. -/
theorem runAct_read8 {a : Act} {reg mask : Byte} {eff : Bool}
    (ha : a ∈ [Act.loadCrv .ba reg, .preCheck mask eff, .pollRead mask]) (s : State) :
    ∃ r f, runAct a s = .next (withRead8 .ba r f s) := by
  simp only [List.mem_cons, List.not_mem_nil, or_false] at ha
  rcases ha with rfl | rfl | rfl <;> exact ⟨_, _, rfl⟩

/-- A read of one byte that does not deliver it stops the sequence, with the valid bits cleared that belong to the
destination of its text (R201). -/
theorem step_read8_short {s : State} {a : Act} {rest : List Act} {k : Nat} {ks : List Nat} {reg mask : Byte}
    {eff : Bool} (ha : a ∈ [Act.loadCrv .ba reg, .preCheck mask eff, .pollRead mask]) (hacq : s.acq = a :: rest)
    (hcounts : s.env.counts = k :: ks) (hk : k ≠ 1) :
    ∃ bus, step s = .next { s with
      flt := s.flt ||| 0b0001, acq := [], ret := some .nothing, env := { s.env with counts := ks }, bus := bus
      resv := (raise .short (destOfText rest) s).resv, resbv := (raise .short (destOfText rest) s).resbv } := by
  obtain ⟨r, f, hrun⟩ := runAct_read8 ha { s with acq := rest }
  rw [step_of_act hacq, hrun, withRead8_short (s := { s with acq := rest }) hcounts hk]
  refine ⟨s.bus ++ (addressPhase s.cfg .ba r ++ [.requestRead (devAddr s.cfg .ba) 1]), ?_⟩
  cases destOfText rest <;> simp only [stopSequence, raise, clearValid, emit, setFault, FaultCode.mask]

/-- Settles O47: each of the three reads stops the sequence, and the return at the end of its text names the valid
bits that are cleared. -/
theorem shortOneByteReadStopsTheSequence : Obligations.ShortOneByteReadStopsTheSequence := by
  unfold Obligations.ShortOneByteReadStopsTheSequence
  intro s a rest k ks reg mask eff ha hacq hcounts hk
  obtain ⟨bus, hstep⟩ := step_read8_short ha hacq hcounts hk
  refine ⟨_, hstep, rfl, fun mid hrest hmid => ?_, fun mid hrest hmid => ?_⟩
  all_goals
    simp only [hrest, destOfText_append_ret _ hmid]
    exact ⟨rfl, rfl⟩

end Sys2Proof.Machine
end

section
/-! The encoding: a word is an opcode and an immediate, the decoder and the encoder are inverse to each other on the
well-formed instructions, and these are the rows of the table (spec/30_encoding.md R80 to R101). -/

namespace Sys2Proof.Machine

/-! ## The two fields of a word (R80) -/

theorem opcodeOf_eq (w : Cmd) : opcodeOf w = w.toNat / 256 := by
  have hw := w.isLt
  simp only [opcodeOf, BitVec.extractLsb'_toNat, Nat.shiftRight_eq_div_pow]
  omega

theorem immOf_eq (w : Cmd) : immOf w = w.toNat % 256 := by
  simp [immOf, BitVec.extractLsb'_toNat]

/-- A word is determined by its opcode and its immediate. -/
theorem eq_of_fields {w v : Cmd} (hop : opcodeOf w = opcodeOf v) (himm : immOf w = immOf v) : w = v := by
  rw [opcodeOf_eq, opcodeOf_eq] at hop
  rw [immOf_eq, immOf_eq] at himm
  apply BitVec.eq_of_toNat_eq
  omega

/-- Writing an operand into the low byte of a word whose low byte is 0 adds it. -/
theorem ofNat_or_ofNat (op : Nat) {n : Nat} (hn : n < 256) :
    BitVec.ofNat 16 (256 * op) ||| BitVec.ofNat 16 n = BitVec.ofNat 16 (256 * op + n) := by
  have hor := Nat.shiftLeft_add_eq_or_of_lt (show n < 2 ^ 8 from hn) op
  rw [Nat.shiftLeft_eq, mul_comm] at hor
  rw [← BitVec.ofNat_or, ← hor]

theorem encode_gyBegin {r : Nat} (hr : r < 4) : encode (.gyBegin r) = BitVec.ofNat 16 (0x1000 + r) :=
  ofNat_or_ofNat 0x10 (hr.trans (by decide))

theorem encode_crOsr {n : Nat} (hn : n < 256) : encode (.crOsr n) = BitVec.ofNat 16 (0x3400 + n) :=
  ofNat_or_ofNat 0x34 hn

theorem opcodeOf_encode_gyBegin {r : Nat} (hr : r < 4) : opcodeOf (encode (.gyBegin r)) = 0x10 := by
  rw [encode_gyBegin hr, opcodeOf_eq, BitVec.toNat_ofNat]
  omega

theorem immOf_encode_gyBegin {r : Nat} (hr : r < 4) : immOf (encode (.gyBegin r)) = r := by
  rw [encode_gyBegin hr, immOf_eq, BitVec.toNat_ofNat]
  omega

theorem opcodeOf_encode_crOsr {n : Nat} (hn : n < 256) : opcodeOf (encode (.crOsr n)) = 0x34 := by
  rw [encode_crOsr hn, opcodeOf_eq, BitVec.toNat_ofNat]
  omega

theorem immOf_encode_crOsr {n : Nat} (hn : n < 256) : immOf (encode (.crOsr n)) = n := by
  rw [encode_crOsr hn, immOf_eq, BitVec.toNat_ofNat]
  omega

/-! ## The decoder inverts the encoder (R81, R84) -/

/-- An instruction has no operand, or it is GY.BEGIN or CR.OSR. -/
theorem instr_cases (i : Instr) : i ∈ plainInstrs ∨ (∃ r, i = .gyBegin r) ∨ ∃ n, i = .crOsr n := by
  cases i
  case gyBegin r => exact .inr (.inl ⟨r, rfl⟩)
  case crOsr n => exact .inr (.inr ⟨n, rfl⟩)
  all_goals exact .inl (by decide)

theorem wellFormed_of_mem_plainInstrs : ∀ i ∈ plainInstrs, i.WellFormed := by decide

theorem wellFormed_gyBegin {r : Nat} : (Instr.gyBegin r).WellFormed ↔ r < 4 := decide_eq_true_iff

theorem wellFormed_crOsr {n : Nat} : (Instr.crOsr n).WellFormed ↔ n < 256 := decide_eq_true_iff

theorem formatN_eq_ok {imm : Nat} {i j : Instr} : formatN imm j = .ok i ↔ imm = 0 ∧ j = i := by
  unfold formatN
  split <;> simp [*]

theorem formatR_eq_ok {imm : Nat} {i : Instr} : formatR imm = .ok i ↔ imm < 4 ∧ .gyBegin imm = i := by
  unfold formatR
  split
  case isTrue h =>
    have himm : imm < 4 := by omega
    rw [Nat.mod_eq_of_lt himm]
    simp [himm]
  case isFalse h =>
    have himm : ¬ imm < 4 := by omega
    simp [himm]

theorem decode_of_rangeOpcode {w : Cmd} (hop : opcodeOf w = 0x10) : decode w = formatR (immOf w) := by
  unfold decode
  rw [hop]
  rfl

theorem decode_of_rateOpcode {w : Cmd} (hop : opcodeOf w = 0x34) : decode w = .ok (.crOsr (immOf w)) := by
  unfold decode
  rw [hop]
  rfl

theorem decode_encode {i : Instr} (hwf : i.WellFormed) : decode (encode i) = .ok i := by
  have hplain : ∀ i ∈ plainInstrs, decode (encode i) = .ok i := by decide +kernel
  rcases instr_cases i with hi | ⟨r, rfl⟩ | ⟨n, rfl⟩
  · exact hplain i hi
  · have hr := wellFormed_gyBegin.1 hwf
    rw [decode_of_rangeOpcode (opcodeOf_encode_gyBegin hr), immOf_encode_gyBegin hr]
    exact formatR_eq_ok.2 ⟨hr, rfl⟩
  · have hn := wellFormed_crOsr.1 hwf
    rw [decode_of_rateOpcode (opcodeOf_encode_crOsr hn), immOf_encode_crOsr hn]

/-- What the two fields of a legal word are. -/
theorem fields_of_decode {w : Cmd} {i : Instr} (h : decode w = .ok i) :
    (i ∈ plainInstrs ∧ opcodeOf w = opcodeOf (encode i) ∧ immOf w = 0) ∨
      (∃ r < 4, i = .gyBegin r ∧ opcodeOf w = 0x10 ∧ immOf w = r) ∨
      (i = .crOsr (immOf w) ∧ opcodeOf w = 0x34) := by
  unfold decode at h
  split at h
  case h_4 hop =>
    obtain ⟨himm, rfl⟩ := formatR_eq_ok.1 h
    exact .inr (.inl ⟨_, himm, rfl, hop, rfl⟩)
  case h_17 hop =>
    cases h
    exact .inr (.inr ⟨rfl, hop⟩)
  case h_21 => cases h
  all_goals
    rename_i hop
    obtain ⟨himm, rfl⟩ := formatN_eq_ok.1 h
    exact .inl ⟨by decide, hop, himm⟩

theorem encode_decode {w : Cmd} {i : Instr} (h : decode w = .ok i) : i.WellFormed ∧ encode i = w := by
  have hplain : ∀ i ∈ plainInstrs, immOf (encode i) = 0 := by decide
  rcases fields_of_decode h with ⟨hi, hop, himm⟩ | ⟨r, hr, rfl, hop, himm⟩ | ⟨rfl, hop⟩
  · exact ⟨wellFormed_of_mem_plainInstrs i hi, eq_of_fields hop.symm ((hplain i hi).trans himm.symm)⟩
  · exact ⟨wellFormed_gyBegin.2 hr, eq_of_fields ((opcodeOf_encode_gyBegin hr).trans hop.symm)
      ((immOf_encode_gyBegin hr).trans himm.symm)⟩
  · have hn : immOf w < 256 := (w.extractLsb' 0 8).isLt
    exact ⟨wellFormed_crOsr.2 hn, eq_of_fields ((opcodeOf_encode_crOsr hn).trans hop.symm) (immOf_encode_crOsr hn)⟩

theorem decode_eq_ok_iff {w : Cmd} {i : Instr} : decode w = .ok i ↔ i.WellFormed ∧ encode i = w :=
  ⟨encode_decode, fun ⟨hwf, hw⟩ => hw ▸ decode_encode hwf⟩

/-- Settles O1: the opcode selects the row, and the immediate is the operand. -/
theorem decodeOfEncodeIsTheInstruction : Obligations.DecodeOfEncodeIsTheInstruction := by
  unfold Obligations.DecodeOfEncodeIsTheInstruction
  exact fun _ => decode_encode

/-- Settles O2: the two fields of a legal word are those of its instruction's encoding. -/
theorem encodeOfDecodedWordIsTheWord : Obligations.EncodeOfDecodedWordIsTheWord := by
  unfold Obligations.EncodeOfDecodedWordIsTheWord
  exact fun _ _ => encode_decode

/-- Settles O5: the eight words, evaluated. -/
theorem sampleWordsDecode : Obligations.SampleWordsDecode := by
  unfold Obligations.SampleWordsDecode
  decide +kernel

/-! ## Illegal words (R97, R243) -/

theorem runWord_illegal {w : Cmd} (h : ∀ i, decode w ≠ .ok i) (s : State) :
    runWord w s = .next { s with flt := s.flt ||| 0b0010 } := by
  cases hd : decode w with
  | ok i => exact absurd hd (h i)
  | error r => exact runWord_of_reject hd

/-! ## The rows of the opcode table (R84, R97) -/

/-- Under a mask that leaves the low `k` bits free, the words that match a pattern are those that differ from it in
these bits only. -/
theorem and_mask_eq_iff {mask pattern w : Cmd} {k : Nat} (hmask : ∀ i : Fin 16, mask.getLsbD i = decide (k ≤ i))
    (hpat : pattern &&& mask = pattern) :
    w &&& mask = pattern ↔ ∃ n < 2 ^ k, pattern ||| BitVec.ofNat 16 n = w := by
  constructor
  · intro h
    refine ⟨w.toNat % 2 ^ k, Nat.mod_lt _ (by positivity), ?_⟩
    rw [← h]
    apply BitVec.eq_of_getLsbD_eq
    intro i hi
    have hbit : mask.getLsbD i = decide (k ≤ i) := hmask ⟨i, hi⟩
    rw [BitVec.getLsbD_or, BitVec.getLsbD_and, hbit, BitVec.getLsbD_ofNat, Nat.testBit_mod_two_pow,
      BitVec.testBit_toNat, decide_eq_true hi]
    by_cases hik : i < k
    · simp [hik, hik.not_ge]
    · simp [hik, not_lt.1 hik]
  · rintro ⟨n, hn, rfl⟩
    have hlow : BitVec.ofNat 16 n &&& mask = 0#16 := by
      apply BitVec.eq_of_getLsbD_eq
      intro i hi
      have hbit : mask.getLsbD i = decide (k ≤ i) := hmask ⟨i, hi⟩
      by_cases hik : k ≤ i
      · simp [BitVec.getLsbD_ofNat, Nat.testBit_lt_two_pow (hn.trans_le (Nat.pow_le_pow_right two_pos hik))]
      · simp [hbit, hik]
    rw [BitVec.and_or_distrib_right, hpat, hlow, BitVec.or_zero]

theorem covers_full {m : String} {p w : Cmd} : (OpRow.mk m 0xFFFF p).covers w = true ↔ p = w := by
  have hones : w &&& 0xFFFF = w := BitVec.and_allOnes
  rw [OpRow.covers, beq_iff_eq, hones, eq_comm]

theorem covers_range {m : String} {w : Cmd} :
    (OpRow.mk m 0xFFFC 0x1000).covers w = true ↔ ∃ r < 4, encode (.gyBegin r) = w := by
  rw [OpRow.covers, beq_iff_eq]
  exact and_mask_eq_iff (mask := 0xFFFC) (pattern := 0x1000) (k := 2) (by decide) (by decide)

theorem covers_rate {m : String} {w : Cmd} :
    (OpRow.mk m 0xFF00 0x3400).covers w = true ↔ ∃ n < 256, encode (.crOsr n) = w := by
  rw [OpRow.covers, beq_iff_eq]
  exact and_mask_eq_iff (mask := 0xFF00) (pattern := 0x3400) (k := 8) (by decide) (by decide)

/-- The rows: one for each command without an operand, with all bits fixed, and the two with an operand field. -/
theorem mem_opcodeTable_iff {row : OpRow} : row ∈ opcodeTable ↔
    (∃ i ∈ plainInstrs, ⟨i.mnemonic, 0xFFFF, encode i⟩ = row) ∨ row = ⟨"GY.BEGIN", 0xFFFC, 0x1000⟩ ∨
      row = ⟨"CR.OSR", 0xFF00, 0x3400⟩ := by
  have hrows : ∀ row ∈ opcodeTable, (∃ i ∈ plainInstrs, ⟨i.mnemonic, 0xFFFF, encode i⟩ = row) ∨
      row = ⟨"GY.BEGIN", 0xFFFC, 0x1000⟩ ∨ row = ⟨"CR.OSR", 0xFF00, 0x3400⟩ := by decide +kernel
  have hplain : ∀ i ∈ plainInstrs, (⟨i.mnemonic, 0xFFFF, encode i⟩ : OpRow) ∈ opcodeTable := by decide +kernel
  refine ⟨hrows row, ?_⟩
  rintro (⟨i, hi, rfl⟩ | rfl | rfl)
  · exact hplain i hi
  · decide +kernel
  · decide +kernel

/-- A row with a given mnemonic covers exactly the words that decode to an instruction of that mnemonic. -/
theorem exists_row_iff {w : Cmd} {m : String} :
    (∃ row ∈ opcodeTable, row.covers w = true ∧ row.mnemonic = m) ↔ ∃ i, decode w = .ok i ∧ i.mnemonic = m := by
  constructor
  · rintro ⟨row, hrow, hcovers, rfl⟩
    rcases mem_opcodeTable_iff.1 hrow with ⟨i, hi, rfl⟩ | rfl | rfl
    · obtain rfl := covers_full.1 hcovers
      exact ⟨i, decode_encode (wellFormed_of_mem_plainInstrs i hi), rfl⟩
    · obtain ⟨r, hr, rfl⟩ := covers_range.1 hcovers
      exact ⟨_, decode_encode (wellFormed_gyBegin.2 hr), rfl⟩
    · obtain ⟨n, hn, rfl⟩ := covers_rate.1 hcovers
      exact ⟨_, decode_encode (wellFormed_crOsr.2 hn), rfl⟩
  · rintro ⟨i, hi, rfl⟩
    obtain ⟨hwf, rfl⟩ := encode_decode hi
    rcases instr_cases i with hplain | ⟨r, rfl⟩ | ⟨n, rfl⟩
    · exact ⟨_, mem_opcodeTable_iff.2 (.inl ⟨i, hplain, rfl⟩), covers_full.2 rfl, rfl⟩
    · exact ⟨_, mem_opcodeTable_iff.2 (.inr (.inl rfl)), covers_range.2 ⟨r, wellFormed_gyBegin.1 hwf, rfl⟩,
        rfl⟩
    · exact ⟨_, mem_opcodeTable_iff.2 (.inr (.inr rfl)), covers_rate.2 ⟨n, wellFormed_crOsr.1 hwf, rfl⟩, rfl⟩

theorem decodes_iff_exists_row {w : Cmd} : (∃ i, decode w = .ok i) ↔ ∃ row ∈ opcodeTable, row.covers w = true := by
  constructor
  · rintro ⟨i, hi⟩
    obtain ⟨row, hrow, hcovers, -⟩ := exists_row_iff.2 ⟨i, hi, rfl⟩
    exact ⟨row, hrow, hcovers⟩
  · rintro ⟨row, hrow, hcovers⟩
    obtain ⟨i, hi, -⟩ := exists_row_iff.1 ⟨row, hrow, hcovers, rfl⟩
    exact ⟨i, hi⟩

/-- Settles O3: each row covers the encodings of its own command and no other word. -/
theorem unlistedWordsRaiseIllegalAndNothingElse : Obligations.UnlistedWordsRaiseIllegalAndNothingElse := by
  unfold Obligations.UnlistedWordsRaiseIllegalAndNothingElse
  refine fun w => ⟨decodes_iff_exists_row, fun i hi => exists_row_iff.2 ⟨i, hi, rfl⟩, fun hnone => ?_⟩
  refine runWord_illegal fun i hi => ?_
  obtain ⟨row, hrow, hcovers⟩ := decodes_iff_exists_row.1 ⟨i, hi⟩
  exact absurd hcovers (by rw [hnone row hrow]; decide)

/-! ## The legal words (R101) -/

theorem plainWords_eq : plainWords = plainInstrs.map encode := by decide

theorem rangeWords_eq : rangeWords = (List.range 4).map fun r => encode (.gyBegin r) := by decide

theorem rateWords_eq : rateWords = (List.range 256).map fun n => encode (.crOsr n) :=
  List.map_congr_left fun _ hn => (encode_crOsr (List.mem_range.1 hn)).symm

/-- The instructions that have an encoding, in the order of the three lists of words. -/
def legalInstrs : List Instr := plainInstrs ++ (List.range 4).map .gyBegin ++ (List.range 256).map .crOsr

theorem mem_legalInstrs {i : Instr} : i ∈ legalInstrs ↔ i.WellFormed := by
  simp only [legalInstrs, List.mem_append, List.mem_map, List.mem_range]
  constructor
  · rintro ((hi | ⟨r, hr, rfl⟩) | ⟨n, hn, rfl⟩)
    · exact wellFormed_of_mem_plainInstrs i hi
    · exact wellFormed_gyBegin.2 hr
    · exact wellFormed_crOsr.2 hn
  · intro hwf
    rcases instr_cases i with hi | ⟨r, rfl⟩ | ⟨n, rfl⟩
    · exact .inl (.inl hi)
    · exact .inl (.inr ⟨r, wellFormed_gyBegin.1 hwf, rfl⟩)
    · exact .inr ⟨n, wellFormed_crOsr.1 hwf, rfl⟩

theorem nodup_legalInstrs : legalInstrs.Nodup := by
  have hplain : plainInstrs.Nodup := by decide
  have hoperand : ∀ i ∈ plainInstrs, i.operand = none := by decide
  have hrange : ((List.range 4).map Instr.gyBegin).Nodup := List.nodup_range.map fun _ _ h => Instr.gyBegin.inj h
  have hrate : ((List.range 256).map Instr.crOsr).Nodup := List.nodup_range.map fun _ _ h => Instr.crOsr.inj h
  unfold legalInstrs
  refine (hplain.append hrange ?_).append hrate ?_
  · rintro i hi hr
    obtain ⟨r, -, rfl⟩ := List.mem_map.1 hr
    exact absurd (hoperand _ hi) (by simp [Instr.operand])
  · rintro i hi hn
    obtain ⟨n, -, rfl⟩ := List.mem_map.1 hn
    rcases List.mem_append.1 hi with hi | hi
    · exact absurd (hoperand _ hi) (by simp [Instr.operand])
    · simp at hi

theorem legalWords_eq : plainWords ++ rangeWords ++ rateWords = legalInstrs.map encode := by
  simp only [legalInstrs, List.map_append, List.map_map, plainWords_eq, rangeWords_eq, rateWords_eq]
  rfl

theorem mem_legalWords_of_decode {w : Cmd} {i : Instr} (h : decode w = .ok i) :
    w ∈ plainWords ++ rangeWords ++ rateWords := by
  obtain ⟨hwf, rfl⟩ := encode_decode h
  rw [legalWords_eq]
  exact List.mem_map_of_mem (mem_legalInstrs.2 hwf)

theorem nodup_legalWords : (plainWords ++ rangeWords ++ rateWords).Nodup := by
  rw [legalWords_eq]
  refine nodup_legalInstrs.map_on fun i hi j hj h => ?_
  have hdecode := decode_encode (mem_legalInstrs.1 hi)
  rw [h, decode_encode (mem_legalInstrs.1 hj)] at hdecode
  exact (Except.ok.inj hdecode).symm

/-- Decoding the encodings of a list of well-formed instructions gives the instructions. -/
theorem map_decode_map_encode {l : List Instr} (h : ∀ i ∈ l, i.WellFormed) :
    (l.map encode).map decode = l.map .ok := by
  rw [List.map_map]
  exact List.map_congr_left fun i hi => decode_encode (h i hi)

/-- Settles O4: the words are the encodings of the well-formed instructions, one for each. -/
theorem legalWordCountIs278 : Obligations.LegalWordCountIs278 := by
  unfold Obligations.LegalWordCountIs278
  have hrate : rateWords.length = 256 := by simp [rateWords]
  refine ⟨rfl, rfl, hrate, nodup_legalWords, ?_, ?_, by decide, ?_, fun n hn => ⟨?_, ?_⟩, fun w hw => ?_⟩
  · simp only [List.length_append, hrate]
    rfl
  · rw [plainWords_eq, map_decode_map_encode wellFormed_of_mem_plainInstrs]
  · rw [rangeWords_eq, List.map_map]
    exact List.map_congr_left fun r hr => decode_encode (wellFormed_gyBegin.2 (List.mem_range.1 hr))
  · exact List.mem_map_of_mem (List.mem_range.2 hn)
  · rw [← encode_crOsr hn, decode_encode (wellFormed_crOsr.2 hn)]
  · exact runWord_illegal fun i hi => hw (mem_legalWords_of_decode hi)

/-! ## A word the host presents (R277) -/

theorem step_of_command {s : State} {w : Cmd} {i : Instr} {rest : List HostReq} (hw : decode w = .ok i)
    (hacq : s.acq = []) (hhost : s.host = .command w :: rest) : step s = exec i { s with host := rest } :=
  (step_of_request hacq hhost).trans (runWord_of_decode hw)

/-- Settles O6: a request is served when ACQ is idle, and a legal word on the port runs its command. -/
theorem hostCommandStepRunsTheDecodedInstruction : Obligations.HostCommandStepRunsTheDecodedInstruction := by
  unfold Obligations.HostCommandStepRunsTheDecodedInstruction
  refine fun s w i hw => ⟨fun rest hacq hhost => step_of_command hw hacq hhost, ?_⟩
  have hword : BitVec.ofNat 16 (w.toNat % 2 ^ 16) = w := by
    rw [Nat.mod_eq_of_lt w.isLt, BitVec.ofNat_toNat, BitVec.setWidth_eq]
  have hpresented : s.withFetchWord 16 w.toNat = { s with acq := [], host := .command w :: s.host } := by
    rw [State.withFetchWord, hword]
  rw [hpresented]
  exact step_of_command hw rfl rfl

end Sys2Proof.Machine
end

section
/-! The binary32 rounding is to a nearest number, ties to even, with the sign and the overflow of the standard
(spec/30_encoding.md R100). -/

namespace Sys2Proof.Machine

/-! ## The nearest integer -/

theorem abs_roundHalfEven_sub_le (n : Nat) {m : Nat} (hm : 0 < m) :
    |(roundHalfEven n m : Rat) - (n : Rat) / m| ≤ 1 / 2 := by
  obtain ⟨hlow, hhigh⟩ := roundHalfEven_near n hm
  have hm' : (0 : Rat) < m := by exact_mod_cast hm
  have hlow' : (2 * n : Rat) ≤ (2 * roundHalfEven n m + 1) * m := by exact_mod_cast hlow
  have hhigh' : (2 * roundHalfEven n m * m : Rat) ≤ 2 * n + m := by exact_mod_cast hhigh
  have hquot : (n : Rat) = (n : Rat) / m * m := (div_mul_cancel₀ _ hm'.ne').symm
  generalize (n : Rat) / m = y at *
  rw [hquot] at hlow' hhigh'
  rw [abs_le]
  constructor <;> nlinarith

theorem roundHalfEven_even_of_half {n m : Nat} (hm : 0 < m)
    (h : |(roundHalfEven n m : Rat) - (n : Rat) / m| = 1 / 2) : roundHalfEven n m % 2 = 0 := by
  have hm' : (m : Rat) ≠ 0 := by exact_mod_cast hm.ne'
  refine roundHalfEven_tie n hm ?_
  rcases (abs_eq (by norm_num)).1 h with h | h
  · refine .inr ?_
    field_simp at h
    have htie : (2 * roundHalfEven n m * m : Rat) = 2 * n + m := by linarith
    exact_mod_cast htie
  · refine .inl ?_
    field_simp at h
    have htie : (2 * n : Rat) = (2 * roundHalfEven n m + 1) * m := by linarith
    exact_mod_cast htie

/-- Another integer than `r` is at least half a unit away from what `r` is at most half a unit away from. -/
theorem half_le_abs_sub {r : Nat} {k : Int} {y : Rat} (hr : |(r : Rat) - y| ≤ 1 / 2) (hk : k ≠ r) :
    1 / 2 ≤ |(k : Rat) - y| := by
  have hone : (1 : Rat) ≤ |(k : Rat) - r| := by exact_mod_cast Int.one_le_abs (sub_ne_zero.2 hk)
  have htri := abs_sub_le (k : Rat) y r
  rw [abs_sub_comm y] at htri
  linarith

/-- Rounding gives a nearest integer. -/
theorem roundHalfEven_nearest (n : Nat) {m : Nat} (hm : 0 < m) (k : Int) :
    |(roundHalfEven n m : Rat) - (n : Rat) / m| ≤ |(k : Rat) - (n : Rat) / m| := by
  have hnear := abs_roundHalfEven_sub_le n hm
  by_cases hk : k = roundHalfEven n m
  · rw [hk, Int.cast_natCast]
  · exact hnear.trans (half_le_abs_sub hnear hk)

/-- Of two equally near integers rounding gives the even one. -/
theorem roundHalfEven_even_of_tie {n m : Nat} (hm : 0 < m) {k : Int} (hk : k ≠ roundHalfEven n m)
    (h : |(roundHalfEven n m : Rat) - (n : Rat) / m| = |(k : Rat) - (n : Rat) / m|) : roundHalfEven n m % 2 = 0 := by
  have hnear := abs_roundHalfEven_sub_le n hm
  have hfar := half_le_abs_sub hnear hk
  exact roundHalfEven_even_of_half hm (hnear.antisymm (h ▸ hfar))

/-! ## The nearest number -/

/-- The unit in the last place of the grid `q` is rounded on. -/
def gridUnit (q : Rat) : Rat := 2 ^ (gridExp q.num.natAbs q.den - 23)

theorem gridUnit_pos (q : Rat) : 0 < gridUnit q := by
  unfold gridUnit; positivity

theorem roundedMag_eq_units (q : Rat) : roundedMag q = significand q.num.natAbs q.den * gridUnit q := rfl

/-- A distance to `|q|`, in units of the last place. -/
theorem abs_units_sub (q v : Rat) :
    |v * gridUnit q - (|q|)| = |v - |q| * 2 ^ (23 - gridExp q.num.natAbs q.den)| * gridUnit q := by
  have hunit : |q| = |q| * 2 ^ (23 - gridExp q.num.natAbs q.den) * gridUnit q := by
    rw [gridUnit, mul_assoc, ← zpow_add₀ two_ne_zero]
    simp
  rw [← abs_of_pos (gridUnit_pos q), ← abs_mul, sub_mul, abs_of_pos (gridUnit_pos q), ← hunit]

theorem roundedMag_nearest_unit (q : Rat) (k : Int) :
    |roundedMag q - (|q|)| ≤ |k * gridUnit q - (|q|)| := by
  have hden := q.den_pos
  have hle := roundHalfEven_nearest (q.num.natAbs * 2 ^ (23 - gridExp q.num.natAbs q.den).toNat)
    (m := q.den * 2 ^ (gridExp q.num.natAbs q.den - 23).toNat) (by positivity) k
  rw [significand_quotient, natAbs_num_div_den] at hle
  rw [roundedMag_eq_units, abs_units_sub, abs_units_sub]
  exact mul_le_mul_of_nonneg_right hle (gridUnit_pos q).le

theorem significand_even_of_tie {q : Rat} {k : Int} (hk : k ≠ significand q.num.natAbs q.den)
    (h : |roundedMag q - (|q|)| = |k * gridUnit q - (|q|)|) : significand q.num.natAbs q.den % 2 = 0 := by
  have hden := q.den_pos
  refine roundHalfEven_even_of_tie (by positivity) hk ?_
  rw [significand_quotient, natAbs_num_div_den]
  rw [roundedMag_eq_units, abs_units_sub, abs_units_sub] at h
  exact mul_right_cancel₀ (gridUnit_pos q).ne' h

/-- A number `m * 2^e` with `e` at least the exponent of the last place is in whole units. -/
theorem eq_units_of_le {q : Rat} {e : Int} (he : gridExp q.num.natAbs q.den - 23 ≤ e) (m : Int) :
    ∃ k : Int, (m : Rat) * 2 ^ e = k * gridUnit q := by
  refine ⟨m * 2 ^ (e - (gridExp q.num.natAbs q.den - 23)).toNat, ?_⟩
  push_cast
  rw [gridUnit, mul_assoc, ← zpow_natCast, Int.toNat_of_nonneg (by omega), ← zpow_add₀ two_ne_zero]
  congr 2
  ring

/-- The least normal number of the grid is `2^23` units. -/
theorem leading_units (q : Rat) : ((2 ^ 23 : Int) : Rat) * gridUnit q = 2 ^ gridExp q.num.natAbs q.den := by
  rw [gridUnit, Int.cast_pow, ← zpow_natCast, Int.cast_ofNat, ← zpow_add₀ two_ne_zero]
  congr 1
  push_cast
  ring

/-- Above the subnormal grid, `|q|` is not below the least normal number of its grid. -/
theorem two_zpow_gridExp_le {q : Rat} (hq : q ≠ 0) (hG : -126 < gridExp q.num.natAbs q.den) :
    (2 : Rat) ^ gridExp q.num.natAbs q.den ≤ |q| := by
  have hlog : gridExp q.num.natAbs q.den = ilog2 q.num.natAbs q.den := by unfold gridExp at *; omega
  rw [hlog, ← natAbs_num_div_den]
  exact (ilog2_spec (natAbs_num_pos hq) q.den_pos).1

theorem dyadic_lt_two_zpow {m e G : Int} (hm : m.natAbs < 2 ^ 24) (he : e + 24 ≤ G) : (m : Rat) * 2 ^ e < 2 ^ G := by
  calc (m : Rat) * 2 ^ e < (2 ^ 24 : Int) * 2 ^ e := by
        gcongr
        omega
    _ = 2 ^ (e + 24) := by rw [zpow_add₀ two_ne_zero, mul_comm]; norm_num
    _ ≤ 2 ^ G := zpow_le_zpow_right₀ one_le_two he

/-- A number of 24 bits with a finer last place than that of `q` lies below the least normal number of the grid, so
`roundedMag` is strictly nearer to `|q|`. -/
theorem farther_of_finer {q : Rat} (hq : q ≠ 0) {m e : Int} (hm : m.natAbs < 2 ^ 24) (he : -149 ≤ e)
    (hfine : e < gridExp q.num.natAbs q.den - 23) :
    |roundedMag q - (|q|)| < |(m : Rat) * 2 ^ e - (|q|)| := by
  have hnearest := roundedMag_nearest_unit q (2 ^ 23)
  have hgrid := two_zpow_gridExp_le hq (by omega)
  have hbelow := dyadic_lt_two_zpow hm (by omega : e + 24 ≤ gridExp q.num.natAbs q.den)
  rw [leading_units, abs_of_nonpos (sub_nonpos.2 hgrid)] at hnearest
  rw [abs_of_neg (sub_neg.2 (hbelow.trans_le hgrid))]
  linarith

/-- A number with a significand of 24 bits, and its sign, on a grid of binary32, were the exponent unbounded above. -/
def OnGrid (v : Rat) : Prop := ∃ m e : Int, m.natAbs < 2 ^ 24 ∧ -149 ≤ e ∧ v = m * 2 ^ e

theorem OnGrid.neg {v : Rat} (hv : OnGrid v) : OnGrid (-v) := by
  obtain ⟨m, e, hm, he, rfl⟩ := hv
  exact ⟨-m, e, by omega, he, by push_cast; ring⟩

theorem OnGrid.units_or_farther {q v : Rat} (hq : q ≠ 0) (hv : OnGrid v) :
    (∃ k : Int, v = k * gridUnit q) ∨ |roundedMag q - (|q|)| < |v - (|q|)| := by
  obtain ⟨m, e, hm, he, rfl⟩ := hv
  rcases le_or_gt (gridExp q.num.natAbs q.den - 23) e with hcoarse | hfine
  · exact .inl (eq_units_of_le hcoarse m)
  · exact .inr (farther_of_finer hq hm he hfine)

/-- `roundedMag` is nearest to `|q|` among the numbers on the grids (R100 a, b). -/
theorem roundedMag_nearest {q v : Rat} (hq : q ≠ 0) (hv : OnGrid v) : |roundedMag q - (|q|)| ≤ |v - (|q|)| := by
  rcases hv.units_or_farther hq with ⟨k, rfl⟩ | hfarther
  · exact roundedMag_nearest_unit q k
  · exact hfarther.le

/-- Of two equally near numbers on the grids `roundedMag` is the one with an even significand (R100 a). -/
theorem significand_even_of_equally_near {q v : Rat} (hq : q ≠ 0) (hv : OnGrid v) (hne : v ≠ roundedMag q)
    (h : |roundedMag q - (|q|)| = |v - (|q|)|) : significand q.num.natAbs q.den % 2 = 0 := by
  rcases hv.units_or_farther hq with ⟨k, rfl⟩ | hfarther
  · refine significand_even_of_tie (fun hsig => hne ?_) h
    rw [hsig, roundedMag_eq_units, Int.cast_natCast]
  · exact absurd h hfarther.ne

/-! ## The nearest pattern -/

theorem b32Mag_onGrid (b : BitVec 32) : OnGrid (b32Mag b) := by
  have hfrac : fracField b < 2 ^ 23 := (b.extractLsb' 0 23).isLt
  rw [b32Mag_eq]
  split
  case isTrue => exact ⟨fracField b, -149, by omega, le_rfl, by push_cast; rfl⟩
  case isFalse => exact ⟨(8388608 + fracField b : Nat), expField b - 150, by omega, by omega, by push_cast; rfl⟩

theorem b32Val_onGrid {b : BitVec 32} (hb : b32Finite b = true) : OnGrid (b32Val b) := by
  rw [b32Val, if_pos hb]
  split
  case isTrue => exact (b32Mag_onGrid b).neg
  case isFalse => exact b32Mag_onGrid b

/-- The lowest bit of a finite result is that of its significand. -/
theorem b32OfRat_even {q : Rat} (h : b32Finite (b32OfRat q) = true)
    (heven : significand q.num.natAbs q.den % 2 = 0) : (b32OfRat q).getLsbD 0 = false := by
  by_cases hq : q = 0
  · subst hq
    decide
  have hmag := (b32Finite_b32OfRat_iff hq).1 h
  have htoNat := b32OfRat_toNat hq
  unfold magBits infBits at *
  rw [BitVec.getLsbD, Nat.testBit_zero, decide_eq_false_iff_not, htoNat]
  split <;> omega

/-! ### Signs -/

/-- A value with the sign of `q` taken off it. -/
def unsigned (q v : Rat) : Rat := if q < 0 then -v else v

theorem unsigned_self (q : Rat) : unsigned q q = |q| := by
  unfold unsigned
  split
  case isTrue h => exact (abs_of_neg h).symm
  case isFalse h => exact (abs_of_nonneg (not_lt.1 h)).symm

theorem abs_unsigned_sub (q v : Rat) : |unsigned q v - (|q|)| = |v - q| := by
  rcases lt_or_ge q 0 with h | h
  · rw [unsigned, if_pos h, abs_of_neg h, neg_sub_neg, abs_sub_comm]
  · rw [unsigned, if_neg h.not_gt, abs_of_nonneg h]

theorem unsigned_inj {q v w : Rat} (h : unsigned q v = unsigned q w) : v = w := by
  unfold unsigned at h
  split at h
  case isTrue => exact neg_inj.1 h
  case isFalse => exact h

theorem unsigned_b32OfRat {q : Rat} (h : b32Finite (b32OfRat q) = true) :
    unsigned q (b32Val (b32OfRat q)) = roundedMag q := by
  rw [b32Val_b32OfRat h]
  unfold unsigned
  split
  case isTrue => exact neg_neg _
  case isFalse => rfl

theorem onGrid_unsigned {v : Rat} (hv : OnGrid v) (q : Rat) : OnGrid (unsigned q v) := by
  unfold unsigned
  split
  case isTrue => exact hv.neg
  case isFalse => exact hv

/-- Settles O43: with the sign of `q` taken off, every finite pattern is a number on the grids, and `roundedMag` is the
nearest to `|q|` among these. -/
theorem binary32RoundsToNearestTiesToEven : Obligations.Binary32RoundsToNearestTiesToEven := by
  unfold Obligations.Binary32RoundsToNearestTiesToEven
  intro q b hq hb
  by_cases hzero : q = 0
  · subst hzero
    have hval : b32Val (b32OfRat 0) = 0 := by decide +kernel
    rw [hval, sub_zero, abs_zero]
    exact ⟨abs_nonneg _, fun _ _ => by decide⟩
  have hgrid := onGrid_unsigned (b32Val_onGrid hb) q
  rw [← abs_unsigned_sub q (b32Val b), ← abs_unsigned_sub q (b32Val (b32OfRat q)), unsigned_b32OfRat hq]
  refine ⟨roundedMag_nearest hzero hgrid, fun htie hne => b32OfRat_even hq ?_⟩
  refine significand_even_of_equally_near hzero hgrid (fun heq => hne ?_) htie
  exact unsigned_inj (heq.trans (unsigned_b32OfRat hq).symm)

/-! ## Overflow and sign -/

theorem b32Infinite_b32OfRat_iff {q : Rat} (hq : q ≠ 0) :
    b32Infinite (b32OfRat q) = true ↔ magBits q.num.natAbs q.den = infBits := by
  have hle := magBits_le_infBits q.num.natAbs q.den
  rw [b32OfRat_of_ne_zero hq, b32Infinite, (fields_ofNat _).1, (fields_ofNat _).2, Bool.and_eq_true, beq_iff_eq,
    beq_iff_eq]
  unfold infBits at *
  split <;> omega

theorem abs_significand_sub_le (q : Rat) :
    |(significand q.num.natAbs q.den : Rat) - |q| * 2 ^ (23 - gridExp q.num.natAbs q.den)| ≤ 1 / 2 := by
  have hden := q.den_pos
  rw [← natAbs_num_div_den q, ← significand_quotient]
  exact abs_roundHalfEven_sub_le _ (by positivity)

theorem gridExp_le_of_abs_lt {q : Rat} (hq : q ≠ 0) (h : |q| < 2 ^ 128) : gridExp q.num.natAbs q.den ≤ 127 := by
  have hlog : ilog2 q.num.natAbs q.den < 128 := by
    refine (zpow_lt_zpow_iff_right₀ (one_lt_two (α := Rat))).1 ?_
    calc (2 : Rat) ^ ilog2 q.num.natAbs q.den ≤ |q| :=
          natAbs_num_div_den q ▸ (ilog2_spec (natAbs_num_pos hq) q.den_pos).1
      _ < 2 ^ (128 : Int) := h.trans_eq (by norm_num)
  unfold gridExp
  omega

/-- On the grid with the largest exponent a number below `2^128 − 2^103` does not carry into the next exponent. -/
theorem significand_lt_of_top {q : Rat} (h : |q| < 2 ^ 128 - 2 ^ 103) (hG : gridExp q.num.natAbs q.den = 127) :
    significand q.num.natAbs q.den < 2 ^ 24 := by
  have hunits : |q| * 2 ^ (23 - gridExp q.num.natAbs q.den) < 2 ^ 24 - 1 / 2 := by
    calc |q| * 2 ^ (23 - gridExp q.num.natAbs q.den) < (2 ^ 128 - 2 ^ 103) * 2 ^ (23 - (127 : Int)) := by
          rw [hG]
          gcongr
      _ = 2 ^ 24 - 1 / 2 := by norm_num
  obtain ⟨-, hnear⟩ := abs_le.1 (abs_significand_sub_le q)
  have hlt : (significand q.num.natAbs q.den : Rat) < (2 ^ 24 : Nat) := by
    push_cast
    linarith
  exact_mod_cast hlt

theorem magBits_lt_infBits {q : Rat} (hq : q ≠ 0) (h : |q| < 2 ^ 128 - 2 ^ 103) :
    magBits q.num.natAbs q.den < infBits := by
  have hcarry := significand_le_carry (natAbs_num_pos hq) q.den_pos
  have hexp := gridExp_le_of_abs_lt hq (h.trans (by norm_num))
  have htop := significand_lt_of_top h
  unfold magBits infBits
  omega

theorem magBits_threshold : magBits (2 ^ 128 - 2 ^ 103 : Rat).num.natAbs (2 ^ 128 - 2 ^ 103 : Rat).den = infBits := by
  decide +kernel

theorem b32Infinite_iff (q : Rat) : b32Infinite (b32OfRat q) = true ↔ 2 ^ 128 - 2 ^ 103 ≤ |q| := by
  by_cases hq : q = 0
  · subst hq
    exact iff_of_false (by decide) (by norm_num)
  rw [b32Infinite_b32OfRat_iff hq]
  constructor
  · exact fun hinf => not_lt.1 fun hlt => (magBits_lt_infBits hq hlt).ne hinf
  · intro h
    have hpos : (0 : Rat) < 2 ^ 128 - 2 ^ 103 := by norm_num
    refine (magBits_le_infBits _ _).antisymm (magBits_threshold ▸ magBits_mono_of_abs hpos.ne' ?_)
    rwa [abs_of_pos hpos]

/-- Adding the weight of the sign bit flips the sign bit. -/
theorem ofNat_add_signBit (n : Nat) : BitVec.ofNat 32 (2147483648 + n) = BitVec.ofNat 32 n ^^^ 0x80000000 := by
  have hsign : (0x80000000 : BitVec 32) = BitVec.twoPow 32 31 := by decide
  apply BitVec.eq_of_getLsbD_eq
  intro i hi
  rw [hsign, BitVec.getLsbD_xor, BitVec.getLsbD_twoPow, BitVec.getLsbD_ofNat, BitVec.getLsbD_ofNat,
    decide_eq_true hi, Bool.true_and, Bool.true_and]
  rcases (Nat.le_of_lt_succ hi).lt_or_eq with hlow | rfl
  · simpa [hlow.ne'] using Nat.testBit_two_pow_add_gt hlow n
  · simpa using Nat.testBit_two_pow_add_eq n 31

theorem b32OfRat_neg_of_pos {q : Rat} (hq : 0 < q) : b32OfRat (-q) = b32OfRat q ^^^ 0x80000000 := by
  have hneg : -q < 0 := neg_neg_of_pos hq
  rw [b32OfRat_of_ne_zero hneg.ne, b32OfRat_of_ne_zero hq.ne', if_pos hneg, if_neg hq.not_gt, Nat.zero_add,
    ofNat_add_signBit, Rat.num_neg_eq_neg_num, Rat.den_neg_eq_den, Int.natAbs_neg]

theorem b32OfRat_neg {q : Rat} (hq : q ≠ 0) : b32OfRat (-q) = b32OfRat q ^^^ 0x80000000 := by
  rcases lt_or_gt_of_ne hq with h | h
  · have hflip := b32OfRat_neg_of_pos (neg_pos.2 h)
    rw [neg_neg] at hflip
    rw [hflip, BitVec.xor_assoc, BitVec.xor_self, BitVec.xor_zero]
  · exact b32OfRat_neg_of_pos h

/-- Settles O44: the bits are the sign bit and the rounded magnitude, which is that of the infinity exactly from the
threshold on. -/
theorem binary32SignOverflowAndNoNaN : Obligations.Binary32SignOverflowAndNoNaN := by
  unfold Obligations.Binary32SignOverflowAndNoNaN
  exact ⟨by decide, fun q => ⟨b32OfRat_msb, b32Infinite_iff q, b32NaN_b32OfRat q, b32OfRat_neg⟩⟩

end Sys2Proof.Machine
end

section
/-! Family HT: the status check and the two affine maps of the unsigned 16-bit sample (spec/40_humidity_temperature.md
R111 to R113). -/

namespace Sys2Proof.Machine

variable {s : State}

/-! ## A wrong count -/

/-- A command that raises a fault ends with the fault recorded (R241). -/
theorem exec_of_raisedBy {i : Instr} {c : FaultCode} (h : raisedBy i s = some c) :
    exec i s = .next (raise c (destOf i) s) := by
  cases hc : command i s with
  | ok t =>
    rw [raisedBy, hc] at h
    cases h
  | error d =>
    rw [raisedBy, hc] at h
    cases h
    exact exec_of_error hc

/-- SHORT of a command that counts its sample first (R242); GY.EVENT, which tests first that the driver is Active, has
`raisedBy_short_of_wrong_count`. -/
theorem exec_of_wrong_count {i : Instr} {n : Nat} (hn : expectedCount i = some n) (hi : i ≠ .gyEvent)
    (hcount : s.sbcnt.toNat ≠ n) : exec i s = .next (raise .short (destOf i) s) :=
  exec_of_raisedBy (raisedBy_short_of_wrong_count hn (fun h => absurd h hi) hcount)

/-! ## The status check -/

theorem exec_htInitchk_of_status {b : Byte} (hcount : s.sbcnt.toNat = 1) (hb : s.sb[0] = some b) :
    exec .htInitchk s = .next (writeCheck (b == s.cfg.htResetSentinel) s) := by
  apply exec_of_ok
  rw [command, commandHtInitchk, needCount_of_eq hcount, sample_of_some (i := 0) hb]
  rfl

/-- Settles O14: the check reads one whole byte, and any other count raises SHORT. -/
theorem htInitchkComparesStatusWithSentinel : Obligations.HtInitchkComparesStatusWithSentinel := by
  unfold Obligations.HtInitchkComparesStatusWithSentinel
  exact fun s => ⟨fun b hcount hb => exec_htInitchk_of_status hcount hb, exec_of_wrong_count rfl (by decide)⟩

/-! ## The two measurements -/

section Sample
variable {b0 b1 : Byte} (hcount : s.sbcnt.toNat = 3) (h0 : s.sb[0] = some b0) (h1 : s.sb[1] = some b1)
include hcount h0 h1

/-- The shape HT.TEMP and HT.HUM share: three bytes counted, and one result from the big-endian value of two (R86). -/
theorem scalar_of_be16u (value : Nat → Rat) :
    (do
      needCount 3 s
      let high ← sample 0 s
      let low ← sample 1 s
      return writeScalar (value (be16u high low)) s : Except FaultCode State) =
      .ok (writeScalar (value (256 * b0.toNat + b1.toNat)) s) := by
  rw [needCount_of_eq hcount, sample_of_some (i := 0) h0, sample_of_some (i := 1) h1, ← be16u_eq]
  rfl

theorem exec_htTemp_of_sample :
    exec .htTemp s = .next (writeScalar (htTempValue (256 * b0.toNat + b1.toNat)) s) :=
  exec_of_ok (scalar_of_be16u hcount h0 h1 htTempValue)

theorem exec_htHum_of_sample :
    exec .htHum s = .next (writeScalar (htHumValue (256 * b0.toNat + b1.toNat)) s) :=
  exec_of_ok (scalar_of_be16u hcount h0 h1 htHumValue)

end Sample

/-- R112's formula over one denominator. -/
theorem htTempValue_eq (raw : Nat) : htTempValue raw = (4393 * (raw : Rat) - 76759040) / 1638400 := by
  unfold htTempValue Config.htCMul Config.htDiv Config.htCOff
  ring

/-- R113's formula over one denominator. -/
theorem htHumValue_eq (raw : Nat) : htHumValue raw = (125 * (raw : Rat) - 393216) / 65536 := by
  unfold htHumValue Config.htHMul Config.htDiv Config.htHOff
  ring

/-- Settles O15: the value is R112's, and any other count raises SHORT. -/
theorem htTempIsTheAffineMap : Obligations.HtTempIsTheAffineMap := by
  unfold Obligations.HtTempIsTheAffineMap
  refine fun s => ⟨fun b0 b1 hcount h0 h1 => ?_, exec_of_wrong_count rfl (by decide)⟩
  rw [exec_htTemp_of_sample hcount h0 h1, htTempValue_eq]
  rfl

/-- A humidity is a number of 65536ths that 24 bits hold (R113). -/
theorem val_fl_htHumValue {raw : Nat} (hraw : raw < 2 ^ 16) :
    val (fl .binary32 (htHumValue raw)) = htHumValue raw := by
  have hdyadic : htHumValue raw = ((125 * raw - 393216 : Int) : Rat) * 2 ^ (-16 : Int) := by
    rw [htHumValue_eq]
    norm_num [div_eq_mul_inv]
  exact b32Val_b32OfRat_of_dyadic hdyadic (by omega) (by decide) (by decide)

/-- Settles O16: the value is R113's, binary32 holds it, and any other count raises SHORT. -/
theorem htHumIsTheAffineMapAndExact : Obligations.HtHumIsTheAffineMapAndExact := by
  unfold Obligations.HtHumIsTheAffineMapAndExact
  refine fun s => ⟨fun b0 b1 hcount h0 h1 => ?_, exec_of_wrong_count rfl (by decide)⟩
  have hraw : 256 * b0.toNat + b1.toNat < 2 ^ 16 := by omega
  rw [exec_htHum_of_sample hcount h0 h1, ← htHumValue_eq]
  exact ⟨rfl, val_fl_htHumValue hraw⟩

end Sys2Proof.Machine
end

section
/-! Family GY: the identity check, the three scaled axes, and the bounds of the range with the sequence that returns
them (spec/41_gyroscope.md R131 to R134, spec/44_acquisition_sequences.md R209). -/

namespace Sys2Proof.Machine

variable {s : State}

/-! ## The identity check (R131) -/

theorem exec_gyBegin_of_match (r : Nat) (hcount : s.sbcnt.toNat = 1) (hb : s.sb[0] = some s.cfg.gyIdExpected) :
    exec (.gyBegin r) s = .next (writeCheck true { s with range := some (BitVec.ofNat 2 r), gyst := .active }) := by
  apply exec_of_ok
  rw [command, commandGyBegin, needCount_of_eq hcount, sample_of_some (i := 0) hb]
  exact if_pos rfl

theorem exec_gyBegin_of_mismatch (r : Nat) {b : Byte} (hcount : s.sbcnt.toNat = 1) (hb : s.sb[0] = some b)
    (hne : b ≠ s.cfg.gyIdExpected) : exec (.gyBegin r) s = .next (writeCheck false s) := by
  apply exec_of_ok
  rw [command, commandGyBegin, needCount_of_eq hcount, sample_of_some (i := 0) hb]
  exact if_neg hne

/-- Settles O17: the identity byte decides between the two writes, and any other count raises SHORT. -/
theorem gyBeginChecksIdentityAndSetsRange : Obligations.GyBeginChecksIdentityAndSetsRange := by
  unfold Obligations.GyBeginChecksIdentityAndSetsRange
  refine fun s r hr => ⟨fun hcount hb => ⟨exec_gyBegin_of_match r hcount hb, Nat.mod_eq_of_lt hr⟩, ?_, ?_⟩
  · exact fun b => exec_gyBegin_of_mismatch r
  · exact exec_of_wrong_count rfl (by simp)

/-! ## The three axes (R132, R134) -/

/-- The big-endian pattern is the two bytes side by side (R11). -/
theorem be16_eq_append (b0 b1 : Byte) : be16 b0 b1 = b0 ++ b1 := by
  apply BitVec.eq_of_toNat_eq
  rw [be16_toNat, BitVec.toNat_append, ← Nat.shiftLeft_add_eq_or_of_lt b1.isLt, Nat.shiftLeft_eq, Nat.mul_comm]

/-- The count that an axis scales is the two's-complement reading of its two bytes (R88). -/
theorem gyRateValue_be16s (c : Cfg) (r : BitVec 2) (b0 b1 : Byte) :
    gyRateValue c r (be16s b0 b1) = ((b0 ++ b1).toInt : Rat) * c.sens[r.toNat]'(r.isLt) * c.deg2rad := by
  rw [gyRateValue, be16s, sext_eq_toInt, be16_eq_append]

theorem exec_gyEvent_of_sample {b1 b2 b3 b4 b5 b6 : Byte} {r : BitVec 2} {now : Tick} (hgy : s.gyst = .active)
    (hcount : s.sbcnt.toNat = 7) (hticks : s.ticks = some now) (hrange : s.range = some r) (h1 : s.sb[1] = some b1)
    (h2 : s.sb[2] = some b2) (h3 : s.sb[3] = some b3) (h4 : s.sb[4] = some b4) (h5 : s.sb[5] = some b5)
    (h6 : s.sb[6] = some b6) :
    exec .gyEvent s = .next (writeTriple (gyRateValue s.cfg r (be16s b1 b2)) (gyRateValue s.cfg r (be16s b3 b4))
      (gyRateValue s.cfg r (be16s b5 b6)) { s with
        rawx := some (be16 b1 b2), rawy := some (be16 b3 b4), rawz := some (be16 b5 b6), evts := some now }) := by
  apply exec_of_ok
  rw [command, commandGyEvent, needActive_of_active hgy, needCount_of_eq hcount, hticks, hrange,
    sample_of_some (i := 1) h1, sample_of_some (i := 2) h2, sample_of_some (i := 3) h3, sample_of_some (i := 4) h4,
    sample_of_some (i := 5) h5, sample_of_some (i := 6) h6]
  rfl

/-- NOTCFG is tested before anything else (R244, R251). -/
theorem exec_gyEvent_of_uninitialized (hgy : s.gyst = .uninitialized) :
    exec .gyEvent s = .next (raise .notcfg .res s) := by
  apply exec_of_error
  rw [command, commandGyEvent, needActive_of_uninitialized hgy]
  rfl

theorem exec_gyEvent_of_wrong_count (hgy : s.gyst = .active) (hcount : s.sbcnt.toNat ≠ 7) :
    exec .gyEvent s = .next (raise .short .res s) :=
  exec_of_raisedBy (raisedBy_short_of_wrong_count rfl (fun _ => hgy) hcount)

/-- NOVALUE comes last: no tick is latched before the first `getEvent` (R34, R245). -/
theorem exec_gyEvent_of_no_ticks (hgy : s.gyst = .active) (hcount : s.sbcnt.toNat = 7) (hticks : s.ticks = none) :
    exec .gyEvent s = .next (raise .novalue .res s) := by
  apply exec_of_error
  rw [command, commandGyEvent, needActive_of_active hgy, needCount_of_eq hcount, hticks]
  rfl

/-- Settles O18: a full sample gives the three scaled axes, and each fault is tested after the one before it. -/
theorem gyEventDecodesAndScalesThreeAxes : Obligations.GyEventDecodesAndScalesThreeAxes := by
  unfold Obligations.GyEventDecodesAndScalesThreeAxes
  intro s
  refine ⟨?_, exec_gyEvent_of_uninitialized, exec_gyEvent_of_wrong_count, exec_gyEvent_of_no_ticks⟩
  intro b1 b2 b3 b4 b5 b6 r now hgy hcount hticks hrange h1 h2 h3 h4 h5 h6
  rw [exec_gyEvent_of_sample hgy hcount hticks hrange h1 h2 h3 h4 h5 h6]
  simp only [gyRateValue_be16s, be16_eq_append]
  rfl

/-! ## Steps of a sequence (R201, R202) -/

/-- A command of a sequence that raises nothing: its writes are the step (R201). -/
theorem step_of_cmd {i : Instr} {rest : List Act} {t : State} (hwf : i.WellFormed) (hacq : s.acq = cmd i :: rest)
    (hok : command i { s with acq := rest } = .ok t) : step s = .next t := by
  rw [step_of_act hacq]
  rcases actDp_cases (s := { s with acq := rest }) (decode_encode hwf) with ⟨-, hdp⟩ | ⟨c, hraised, -⟩
  · exact hdp.trans (exec_of_ok hok)
  · rw [raisedBy, hok] at hraised
    cases hraised

/-- The return of a sequence whose destination registers hold their values (R202). -/
theorem step_of_ret {k : RetKind} {rest : List Act} {v : Ret} (hacq : s.acq = .ret k :: rest)
    (hv : returnValue k { s with acq := rest } = some v) : step s = .next { s with acq := [], ret := some v } := by
  rw [step_of_act hacq, runAct, hv]
  rfl

/-! ## The bounds of the range (R133, R209) -/

theorem command_gyMeta_of_active {r : BitVec 2} (hgy : s.gyst = .active) (hrange : s.range = some r) :
    command .gyMeta s = .ok (writeTriple (-gyBoundValue s.cfg r) (gyBoundValue s.cfg r) 0 s) := by
  rw [command, commandGyMeta, needActive_of_active hgy, hrange]
  rfl

theorem exec_gyMeta_of_uninitialized (hgy : s.gyst = .uninitialized) :
    exec .gyMeta s = .next (raise .notcfg .res s) := by
  apply exec_of_error
  rw [command, commandGyMeta, needActive_of_uninitialized hgy]
  rfl

/-- The three results of a valid triple, with the name (R209). -/
theorem returnValue_metadata {x y z : F} (hv : s.resv = resvTriple) (h0 : s.res0 = some x) (h1 : s.res1 = some y)
    (h2 : s.res2 = some z) : returnValue .metadata s = some (.metadata s.cfg.gyName x y z) := by
  unfold returnValue hostView
  rw [hv, h0, h1, h2]
  rfl

/-- `getSensorMetadata` (R209): the call, GY.META and the return, a step each (log entry 3), and no action on a port. -/
theorem run_getSensorMetadata {r : BitVec 2} {rest : List HostReq} (hgy : s.gyst = .active)
    (hrange : s.range = some r) (hacq : s.acq = []) (hhost : s.host = .start .getSensorMetadata :: rest) :
    Host.Core.run Sys2Proof.core 3 s =
      .next { writeTriple (-gyBoundValue s.cfg r) (gyBoundValue s.cfg r) 0 { s with host := rest } with
        acq := [], ret := some (.metadata s.cfg.gyName (fl s.cfg.num (-gyBoundValue s.cfg r))
          (fl s.cfg.num (gyBoundValue s.cfg r)) (fl s.cfg.num 0)) } := by
  have hstart : step s = .next { s with host := rest, acq := textGetSensorMetadata } := step_of_request hacq hhost
  have hmeta : step { s with host := rest, acq := textGetSensorMetadata } =
      .next (writeTriple (-gyBoundValue s.cfg r) (gyBoundValue s.cfg r) 0
        { s with host := rest, acq := [.ret .metadata] }) :=
    step_of_cmd (i := .gyMeta) rfl rfl (command_gyMeta_of_active hgy hrange)
  rw [run_succ_of_step hstart, run_succ_of_step hmeta,
    run_succ_of_step (step_of_ret rfl (returnValue_metadata rfl rfl rfl rfl))]
  rfl

/-- Settles O19: GY.META writes the three from the configured range, and its sequence returns them. -/
theorem gyMetaWritesTheBoundsOfTheRange : Obligations.GyMetaWritesTheBoundsOfTheRange := by
  unfold Obligations.GyMetaWritesTheBoundsOfTheRange
  refine fun s => ⟨fun r M hgy hrange hM => ?_, exec_gyMeta_of_uninitialized⟩
  cases hM
  refine ⟨exec_of_ok (command_gyMeta_of_active hgy hrange), fun rest hacq hhost => ?_⟩
  exact ⟨_, run_getSensorMetadata hgy hrange hacq hhost, rfl, rfl, rfl⟩

end Sys2Proof.Machine
end

section
/-! Family BA: the three decodes of a barometric sample, the timeout sentinel that none of them gives, and the two unit
conversions in place (spec/42_barometric.md R152 to R160). -/

namespace Sys2Proof.Machine

variable {s : State}

/-! ## The decodes in natural arithmetic -/

/-- R153's value, on the bytes as numbers. -/
theorem altValue_eq (high : Bool) (b0 b1 b2 : Byte) :
    altValue high b0 b1 b2 = ((16 * (256 * b0.toNat + b1.toNat) +
      (if high then b2.toNat / 16 else b2.toNat % 16) : Nat) : Rat) / 16 := by
  rw [altValue_eq_sixteenths, be16u_eq, altFrac, highNibble_eq, lowNibble_eq, Int.cast_natCast]

/-- R155: the integer part `w[23:6]` and the fraction `w[5:4]` are together `w[23:4]`. -/
theorem presValue_eq (b0 b1 b2 : Byte) :
    presValue b0 b1 b2 = (((65536 * b0.toNat + 256 * b1.toNat + b2.toNat) / 16 : Nat) : Rat) / 4 := by
  have hjoin : 4 * ((65536 * b0.toNat + 256 * b1.toNat + b2.toNat) / 64) + b2.toNat / 16 % 4 =
      (65536 * b0.toNat + 256 * b1.toNat + b2.toNat) / 16 := by omega
  rw [presValue_eq_quarters, presInt_eq, presFrac_eq, hjoin]

theorem signBit_iff (b : Byte) : b.getLsbD 7 = true ↔ 128 ≤ b.toNat := by
  rw [← BitVec.msb_eq_getLsbD_last b, BitVec.msb_eq_decide, decide_eq_true_iff]

/-- R157: negating the 12 bits and then the result is the two's-complement reading of the pattern. -/
theorem baTempValue_eq (b0 b1 : Byte) :
    baTempValue b0 b1 = ((if 16 * b0.toNat + b1.toNat / 16 < 2048 then ((16 * b0.toNat + b1.toNat / 16 : Nat) : Int)
      else ((16 * b0.toNat + b1.toNat / 16 : Nat) : Int) - 4096 : Int) : Rat) / 16 := by
  have h0 := b0.isLt
  have h1 := b1.isLt
  rw [baTempValue_eq_sixteenths, neg_toNat, tempPattern_toNat]
  by_cases hsign : b0.getLsbD 7 = true
  · have hlarge := (signBit_iff b0).1 hsign
    rw [if_pos hsign, if_neg (by omega)]
    congr 2
    omega
  · have hsmall := mt (signBit_iff b0).2 hsign
    rw [if_neg hsign, if_pos (by omega)]

/-! ## The three commands on a full sample -/

section Sample
variable {b0 b1 b2 : Byte} (h0 : s.sb[0] = some b0) (h1 : s.sb[1] = some b1)
include h0 h1

/-- The shape BA.ALT and BA.PRES share: three bytes counted and read, and one result from them (R89, R90). -/
theorem scalar_of_three_bytes (hcount : s.sbcnt.toNat = 3) (h2 : s.sb[2] = some b2)
    (value : Byte → Byte → Byte → Rat) :
    (do
      needCount 3 s
      let x ← sample 0 s
      let y ← sample 1 s
      let z ← sample 2 s
      return writeScalar (value x y z) s : Except FaultCode State) = .ok (writeScalar (value b0 b1 b2) s) := by
  rw [needCount_of_eq hcount, sample_of_some (i := 0) h0, sample_of_some (i := 1) h1, sample_of_some (i := 2) h2]
  rfl

theorem exec_baAlt_of_sample (hcount : s.sbcnt.toNat = 3) (h2 : s.sb[2] = some b2) :
    exec .baAlt s = .next (writeScalar (altValue s.cfg.altFracHigh b0 b1 b2) s) :=
  exec_of_ok (scalar_of_three_bytes h0 h1 hcount h2 (altValue s.cfg.altFracHigh))

theorem exec_baPres_of_sample (hcount : s.sbcnt.toNat = 3) (h2 : s.sb[2] = some b2) :
    exec .baPres s = .next (writeScalar (presValue b0 b1 b2) s) :=
  exec_of_ok (scalar_of_three_bytes h0 h1 hcount h2 presValue)

theorem exec_baTemp_of_sample (hcount : s.sbcnt.toNat = 2) :
    exec .baTemp s = .next (writeScalar (baTempValue b0 b1) s) := by
  apply exec_of_ok
  rw [command, commandBaTemp, needCount_of_eq hcount, sample_of_some (i := 0) h0, sample_of_some (i := 1) h1]
  rfl

end Sample

/-- Settles O20: the value is R153's, and any other count raises SHORT. -/
theorem baAltIsSixteenPlusFourFixedPoint : Obligations.BaAltIsSixteenPlusFourFixedPoint := by
  unfold Obligations.BaAltIsSixteenPlusFourFixedPoint
  refine fun s => ⟨fun b0 b1 b2 hcount h0 h1 h2 => ?_, exec_of_wrong_count rfl (by decide)⟩
  rw [exec_baAlt_of_sample h0 h1 hcount h2, altValue_eq]
  rfl

/-- Settles O21: the value is R155's, and any other count raises SHORT. -/
theorem baPresIsTheTopTwentyBitsOverFour : Obligations.BaPresIsTheTopTwentyBitsOverFour := by
  unfold Obligations.BaPresIsTheTopTwentyBitsOverFour
  refine fun s => ⟨fun b0 b1 b2 hcount h0 h1 h2 => ?_, exec_of_wrong_count rfl (by decide)⟩
  rw [exec_baPres_of_sample h0 h1 hcount h2, presValue_eq]
  rfl

/-- Settles O22: the value is R157's, and any other count raises SHORT. -/
theorem baTempIsTwelveBitTwosComplementOverSixteen : Obligations.BaTempIsTwelveBitTwosComplementOverSixteen := by
  unfold Obligations.BaTempIsTwelveBitTwosComplementOverSixteen
  refine fun s => ⟨fun b0 b1 hcount h0 h1 => ?_, exec_of_wrong_count rfl (by decide)⟩
  rw [exec_baTemp_of_sample h0 h1 hcount, baTempValue_eq]
  rfl

/-! ## The timeout sentinel (R158) -/

theorem val_fl_sentinel (n : NumKind) : val (fl n (-999)) = -999 := by
  cases n with
  | binary32 =>
    obtain ⟨-, -, hsentinel⟩ := binary32IsExactOnTheFixedPointValues
    exact hsentinel
  | custom => exact Config.customNum.sentinel

theorem altValue_nonneg (high : Bool) (b0 b1 b2 : Byte) : 0 ≤ altValue high b0 b1 b2 := by
  unfold altValue; positivity

theorem presValue_nonneg (b0 b1 b2 : Byte) : 0 ≤ presValue b0 b1 b2 := by
  unfold presValue; positivity

/-- The lower end of the temperature's range (R156). -/
theorem neg_128_le_baTempValue (b0 b1 : Byte) : -128 ≤ baTempValue b0 b1 := by
  rw [baTempValue_eq, le_div_iff₀ (by norm_num)]
  generalize 16 * b0.toNat + b1.toNat / 16 = t
  have hint : -2048 ≤ (if t < 2048 then (t : Int) else (t : Int) - 4096) := by split <;> omega
  calc (-128 * 16 : Rat) = ((-2048 : Int) : Rat) := by norm_num
    _ ≤ _ := Int.cast_le.2 hint

/-- Settles O23: the sentinel is written as it stands, and each decode is above it. -/
theorem baTmoWritesExactlyTheSentinel : Obligations.BaTmoWritesExactlyTheSentinel := by
  unfold Obligations.BaTmoWritesExactlyTheSentinel
  have hzero : (-999 : Rat) < 0 := by norm_num
  have htemp : (-999 : Rat) < -128 := by norm_num
  refine ⟨fun s => exec_of_ok rfl, val_fl_sentinel, by decide +kernel, fun high b0 b1 b2 => ⟨?_, ?_, ?_⟩⟩
  · exact (hzero.trans_le (altValue_nonneg high b0 b1 b2)).ne'
  · exact (hzero.trans_le (presValue_nonneg b0 b1 b2)).ne'
  · exact (htemp.trans_le (neg_128_le_baTempValue b0 b1)).ne'

/-! ## The conversions in place (R159, R160) -/

theorem convert_of_not_infinite {r : F} (n : NumKind) (g : Rat → Rat) (hr : isInfinite r = false) :
    convert n g r = fl n (g (val r)) := by
  rw [convert, if_neg (by simp [hr])]

theorem convert_of_infinite {r : F} (n : NumKind) (g : Rat → Rat) (hr : isInfinite r = true) :
    convert n g r = r := by
  rw [convert, if_pos hr]

theorem convertRes0_of_invalid (g : Rat → Rat) (hv : s.resv.getLsbD 0 = false) :
    convertRes0 g s = .error .novalue := by
  rw [convertRes0, needRes0_of_invalid hv]
  rfl

section Conversion
variable {i : Instr} {g : Rat → Rat} (hi : ∀ s, command i s = convertRes0 g s)
include hi

/-- What BA.ALTFT and BA.TEMPF share when there is a result: it is converted and nothing else changes. -/
theorem exec_of_conversion {r : F} (hv : s.resv.getLsbD 0 = true) (hr : s.res0 = some r) :
    exec i s = .next { s with res0 := some (convert s.cfg.num g r) } :=
  exec_of_ok ((hi s).trans (convertRes0_of_ok (needRes0_of_valid hv hr)))

/-- An infinity is left as it is, and with it the whole state (R100 d). -/
theorem exec_conversion_of_infinite {r : F} (hv : s.resv.getLsbD 0 = true) (hr : s.res0 = some r)
    (hinf : isInfinite r = true) : exec i s = .next s := by
  rw [exec_of_conversion hi hv hr, convert_of_infinite _ g hinf, ← hr]

theorem exec_conversion_of_invalid (hv : s.resv.getLsbD 0 = false) :
    exec i s = .next (raise .novalue (destOf i) s) :=
  exec_of_error ((hi s).trans (convertRes0_of_invalid g hv))

end Conversion

theorem feetOfMetres_eq (v : Rat) : feetOfMetres v = v * (328084 / 100000) := rfl

/-- `9/5` is the exact rational, so the order of the two operations does not matter (R160). -/
theorem fahrenheitOfCelsius_eq (v : Rat) : fahrenheitOfCelsius v = v * 9 / 5 + 32 := by
  rw [fahrenheitOfCelsius, Config.cToFMul, Config.cToFOff, mul_div_assoc]

/-- Settles O24: a number is multiplied, an infinity stays, and without a result NOVALUE clears `RESV[0]`. -/
theorem baAltftConvertsInPlace : Obligations.BaAltftConvertsInPlace := by
  unfold Obligations.BaAltftConvertsInPlace
  have hcommand (s : State) : command .baAltft s = convertRes0 feetOfMetres s := rfl
  refine fun s => ⟨fun r hv hr hinf => ?_, fun r => exec_conversion_of_infinite hcommand,
    exec_conversion_of_invalid hcommand⟩
  rw [exec_of_conversion hcommand hv hr, convert_of_not_infinite _ _ hinf, feetOfMetres_eq]

/-- Settles O25: a number is mapped, an infinity stays, and without a result NOVALUE clears `RESV[0]`. -/
theorem baTempfConvertsInPlace : Obligations.BaTempfConvertsInPlace := by
  unfold Obligations.BaTempfConvertsInPlace
  have hcommand (s : State) : command .baTempf s = convertRes0 fahrenheitOfCelsius s := rfl
  refine fun s => ⟨fun r hv hr hinf => ?_, fun r => exec_conversion_of_infinite hcommand,
    exec_conversion_of_invalid hcommand⟩
  rw [exec_of_conversion hcommand hv hr, convert_of_not_infinite _ _ hinf, fahrenheitOfCelsius_eq]

end Sys2Proof.Machine
end

section
/-! Family CR: every command replaces the bits of `CRV` under a mask by fixed ones. Its effect on a bit, its idempotence
and the commutation of commands under disjoint masks follow from that (spec/43_control_register.md R180 to R190). -/

namespace Sys2Proof.Machine

variable {s : State} {i j : Instr} {c : Byte}

/-! ## Bits replaced under a mask -/

/-- `c` with its bits under the mask `m` taken from `v`. -/
def replaceBits (m v c : Byte) : Byte := (c &&& ~~~m) ||| (v &&& m)

theorem replaceBits_getLsbD (m v c : Byte) {k : Nat} (hk : k < 8) :
    (replaceBits m v c).getLsbD k = if m.getLsbD k then v.getLsbD k else c.getLsbD k := by
  simp only [replaceBits, BitVec.getLsbD_or, BitVec.getLsbD_and, BitVec.getLsbD_not]
  cases m.getLsbD k <;> simp [hk]

theorem allOnes_getLsbD {k : Nat} (hk : k < 8) : (BitVec.allOnes 8).getLsbD k = true := by
  rw [BitVec.getLsbD_allOnes, decide_eq_true hk]

theorem replaceBits_idem (m v c : Byte) : replaceBits m v (replaceBits m v c) = replaceBits m v c := by
  refine BitVec.eq_of_getLsbD_eq fun k hk => ?_
  simp only [replaceBits_getLsbD _ _ _ hk]
  split <;> rfl

theorem replaceBits_comm {m n : Byte} (h : m &&& n = 0) (v w c : Byte) :
    replaceBits n w (replaceBits m v c) = replaceBits m v (replaceBits n w c) := by
  refine BitVec.eq_of_getLsbD_eq fun k hk => ?_
  have hdisjoint : (m.getLsbD k && n.getLsbD k) = false := by
    rw [← BitVec.getLsbD_and, h]
    exact BitVec.getLsbD_zero
  simp only [replaceBits_getLsbD _ _ _ hk]
  cases hm : m.getLsbD k with
  | false => rfl
  | true =>
    rw [hm, Bool.true_and] at hdisjoint
    rw [hdisjoint]
    rfl

theorem replaceBits_and_not_mask (m v c : Byte) : replaceBits m v c &&& ~~~m = c &&& ~~~m := by
  refine BitVec.eq_of_getLsbD_eq fun k hk => ?_
  simp only [BitVec.getLsbD_and, replaceBits_getLsbD _ _ _ hk]
  cases hm : m.getLsbD k <;> simp [hm]

/-! ## The edit of each command -/

/-- The bits of each field of `CTRL_REG1`, numbered as in `ctrlField` (R92). -/
def fieldMask (cfg : Cfg) : Nat → Byte
  | 0 => 1#8 <<< cfg.baAltBit.val
  | 1 => 1#8 <<< cfg.baSbybBit.val
  | 2 => 1#8 <<< cfg.baOstBit.val
  | _ => Config.osMask

/-- The bits of `CRV` a CR command replaces: its field of `CTRL_REG1`, or the event mask for CR.EVFLAGS. -/
def crvMask (cfg : Cfg) (i : Instr) : Byte := (ctrlField i).elim cfg.baEventMask (fieldMask cfg)

/-- What a CR command puts under its mask: ones to set, the clamped oversample rate, or zeros to clear. -/
def crvBits : Instr → Byte
  | .crModealt | .crActive | .crOstset | .crEvflags => BitVec.allOnes 8
  | .crOsr n => BitVec.ofNat 8 (min n 7) <<< Config.osShift
  | _ => 0

/-- The transformation of `CRV` by a CR command. -/
def editCrv (cfg : Cfg) (i : Instr) (c : Byte) : Byte := replaceBits (crvMask cfg i) (crvBits i) c

theorem or_eq_replaceBits (c m : Byte) : c ||| m = replaceBits m (BitVec.allOnes 8) c := by
  refine BitVec.eq_of_getLsbD_eq fun k hk => ?_
  rw [BitVec.getLsbD_or, replaceBits_getLsbD _ _ _ hk, allOnes_getLsbD hk]
  cases m.getLsbD k <;> simp

theorem and_not_eq_replaceBits (c m : Byte) : c &&& ~~~m = replaceBits m 0 c := by
  simp [replaceBits]

/-- The clamped rate lies within the oversample field, so masking it changes nothing. -/
theorem insertOs_eq_replaceBits (c : Byte) (n : Nat) :
    insertOs c n = replaceBits Config.osMask (BitVec.ofNat 8 (min n 7) <<< Config.osShift) c := by
  have hfits : ∀ k ≤ 7, (BitVec.ofNat 8 k <<< Config.osShift) &&& Config.osMask =
      BitVec.ofNat 8 k <<< Config.osShift := by decide
  rw [replaceBits, hfits _ (min_le_right n 7)]
  rfl

theorem command_of_cr (hi : i.family = .cr) (s : State) : command i s = transformCrv (editCrv s.cfg i) s := by
  cases i with
  | crModebar | crStandby | crOstclr =>
    exact congrArg (transformCrv · s) (funext fun c => and_not_eq_replaceBits c _)
  | crModealt | crActive | crOstset | crEvflags =>
    exact congrArg (transformCrv · s) (funext fun c => or_eq_replaceBits c _)
  | crOsr n => exact congrArg (transformCrv · s) (funext fun c => insertOs_eq_replaceBits c n)
  | _ => cases hi

theorem exec_cr_of_some (hi : i.family = .cr) (hc : s.crv = some c) :
    exec i s = .next { s with crv := some (editCrv s.cfg i c) } :=
  exec_of_ok ((command_of_cr hi s).trans (transformCrv_of_some hc))

theorem destOf_of_cr (hi : i.family = .cr) : destOf i = .none := by
  cases i <;> cases hi <;> rfl

theorem exec_cr_of_novalue (hi : i.family = .cr) (hc : s.crv = none) :
    exec i s = .next { s with flt := s.flt ||| 0b1000 } := by
  rw [exec_of_error ((command_of_cr hi s).trans (transformCrv_of_none hc)), destOf_of_cr hi]
  rfl

/-! ## The fields (R182 to R189) -/

theorem editCrv_getLsbD (cfg : Cfg) (i : Instr) (c : Byte) {k : Nat} (hk : k < 8) :
    (editCrv cfg i c).getLsbD k = if (crvMask cfg i).getLsbD k then (crvBits i).getLsbD k else c.getLsbD k :=
  replaceBits_getLsbD _ _ _ hk

theorem oneBit_getLsbD (b : Fin 8) {k : Nat} (hk : k < 8) : (1#8 <<< b.val).getLsbD k = decide (k = b.val) := by
  revert b k
  decide

/-- Settles O27: the mask is the one bit, and the bits put under it are all `v`. -/
theorem crBitCommandsEditOneBit : Obligations.CrBitCommandsEditOneBit := by
  unfold Obligations.CrBitCommandsEditOneBit
  intro s i bit v hmem
  obtain ⟨hi, hmask, hbits⟩ : i.family = .cr ∧ crvMask s.cfg i = 1#8 <<< bit.val ∧
      crvBits i = if v then BitVec.allOnes 8 else 0 := by
    simp only [List.mem_cons, List.not_mem_nil, or_false, Prod.mk.injEq] at hmem
    obtain h | h | h | h | h | h := hmem <;> obtain ⟨rfl, rfl, rfl⟩ := h <;> exact ⟨rfl, rfl, rfl⟩
  refine ⟨fun c hc => ⟨_, exec_cr_of_some hi hc, fun k hk => ?_⟩, exec_cr_of_novalue hi⟩
  rw [editCrv_getLsbD _ _ _ hk, hmask, oneBit_getLsbD bit hk, hbits]
  cases v with
  | false => simp
  | true => simp only [if_true, allOnes_getLsbD hk, decide_eq_true_eq]

theorem extractLsb'_replaceBits_osMask (v c : Byte) :
    (replaceBits Config.osMask v c).extractLsb' 3 3 = v.extractLsb' 3 3 := by
  have hmask : ∀ k < 3, Config.osMask.getLsbD (3 + k) = true := by decide
  refine BitVec.eq_of_getLsbD_eq fun k hk => ?_
  rw [BitVec.getLsbD_extractLsb', BitVec.getLsbD_extractLsb', replaceBits_getLsbD _ _ _ (by omega),
    hmask k hk, if_pos rfl]

/-- Settles O28: the bits under the oversample mask are the clamped rate, and `0xC7` is the mask's complement. -/
theorem crOsrInsertsTheClampedRate : Obligations.CrOsrInsertsTheClampedRate := by
  unfold Obligations.CrOsrInsertsTheClampedRate
  have hrate : ∀ k ≤ 7, ((BitVec.ofNat 8 k <<< Config.osShift).extractLsb' 3 3).toNat = k := by decide
  refine fun s n _ => ⟨fun c hc => ⟨_, exec_cr_of_some rfl hc, ?_, ?_⟩, exec_cr_of_novalue rfl⟩
  · exact (congrArg BitVec.toNat (extractLsb'_replaceBits_osMask _ c)).trans (hrate _ (min_le_right n 7))
  · exact replaceBits_and_not_mask Config.osMask _ c

/-- Settles O29: ones are put under the event mask. -/
theorem crEvflagsSetsTheEventMask : Obligations.CrEvflagsSetsTheEventMask := by
  unfold Obligations.CrEvflagsSetsTheEventMask
  refine fun s => ⟨fun c hc => ⟨_, exec_cr_of_some rfl hc, fun k hk => ?_⟩, exec_cr_of_novalue rfl⟩
  exact (congrArg (·.getLsbD k) (or_eq_replaceBits c s.cfg.baEventMask).symm).trans BitVec.getLsbD_or

/-! ## Idempotence (R181, R190) -/

/-- Settles O30: the second replacement finds its own bits in place, and the second fault its bit already set. -/
theorem crCommandsAreIdempotent : Obligations.CrCommandsAreIdempotent := by
  unfold Obligations.CrCommandsAreIdempotent
  intro i s t hi hst
  cases hc : s.crv with
  | some c =>
    rw [exec_cr_of_some hi hc] at hst
    cases hst
    rw [exec_cr_of_some hi rfl]
    simp only [editCrv, replaceBits_idem]
  | none =>
    rw [exec_cr_of_novalue hi hc] at hst
    cases hst
    refine (exec_cr_of_novalue hi (by exact hc)).trans ?_
    rw [BitVec.or_assoc, BitVec.or_self]

/-! ## Disjoint fields (R92, R180) -/

theorem oneBit_disjoint {a b : Fin 8} (h : a ≠ b) : 1#8 <<< a.val &&& 1#8 <<< b.val = 0 := by
  revert a b
  decide

theorem oneBit_disjoint_osMask {b : Fin 8} (h : outsideOs b = true) : 1#8 <<< b.val &&& Config.osMask = 0 := by
  revert b
  decide

theorem fieldMask_disjoint_of_lt {cfg : Cfg} (hcfg : cfg.lawful = true) {a b : Nat} (hab : a < b) (hb : b ≤ 3) :
    fieldMask cfg a &&& fieldMask cfg b = 0 := by
  simp only [Cfg.lawful, Bool.and_eq_true, decide_eq_true_eq] at hcfg
  obtain ⟨⟨⟨⟨-, halt⟩, hsbyb⟩, host⟩, haltSbyb, haltOst, hsbybOst⟩ := hcfg
  obtain ⟨rfl, rfl⟩ | ⟨rfl, rfl⟩ | ⟨rfl, rfl⟩ | ⟨rfl, rfl⟩ | ⟨rfl, rfl⟩ | ⟨rfl, rfl⟩ :
      (a = 0 ∧ b = 1) ∨ (a = 0 ∧ b = 2) ∨ (a = 0 ∧ b = 3) ∨ (a = 1 ∧ b = 2) ∨ (a = 1 ∧ b = 3) ∨ (a = 2 ∧ b = 3) := by
    omega
  · exact oneBit_disjoint haltSbyb
  · exact oneBit_disjoint haltOst
  · exact oneBit_disjoint_osMask halt
  · exact oneBit_disjoint hsbybOst
  · exact oneBit_disjoint_osMask hsbyb
  · exact oneBit_disjoint_osMask host

theorem fieldMask_disjoint {cfg : Cfg} (hcfg : cfg.lawful = true) {a b : Nat} (ha : a ≤ 3) (hb : b ≤ 3)
    (hab : a ≠ b) : fieldMask cfg a &&& fieldMask cfg b = 0 := by
  rcases hab.lt_or_gt with h | h
  · exact fieldMask_disjoint_of_lt hcfg h hb
  · rw [BitVec.and_comm]
    exact fieldMask_disjoint_of_lt hcfg h ha

theorem ctrlField_eq_some {a : Nat} (h : ctrlField i = some a) : i.family = .cr ∧ a ≤ 3 := by
  cases i <;> cases h <;> exact ⟨rfl, by decide⟩

theorem editCrv_comm {cfg : Cfg} (hcfg : cfg.lawful = true) {a b : Nat} (hi : ctrlField i = some a)
    (hj : ctrlField j = some b) (hab : a ≠ b) (c : Byte) :
    editCrv cfg j (editCrv cfg i c) = editCrv cfg i (editCrv cfg j c) := by
  refine replaceBits_comm ?_ _ _ c
  rw [crvMask, crvMask, hi, hj]
  exact fieldMask_disjoint hcfg (ctrlField_eq_some hi).2 (ctrlField_eq_some hj).2 hab

theorem execThen_cr_of_some (hi : i.family = .cr) (hj : j.family = .cr) (hc : s.crv = some c) :
    execThen i j s = .next { s with crv := some (editCrv s.cfg j (editCrv s.cfg i c)) } := by
  rw [execThen, exec_cr_of_some hi hc]
  exact exec_cr_of_some hj rfl

theorem execThen_cr_of_novalue (hi : i.family = .cr) (hj : j.family = .cr) (hc : s.crv = none) :
    execThen i j s = .next { s with flt := s.flt ||| 0b1000 ||| 0b1000 } := by
  rw [execThen, exec_cr_of_novalue hi hc]
  exact exec_cr_of_novalue hj hc

/-- Settles O31: the masks of different fields are disjoint, and without a value both orders raise NOVALUE twice. -/
theorem crCommandsOnDifferentFieldsCommute : Obligations.CrCommandsOnDifferentFieldsCommute := by
  unfold Obligations.CrCommandsOnDifferentFieldsCommute
  intro s i j a b hcfg hi hj hab
  obtain ⟨hicr, -⟩ := ctrlField_eq_some hi
  obtain ⟨hjcr, -⟩ := ctrlField_eq_some hj
  cases hc : s.crv with
  | some c => rw [execThen_cr_of_some hicr hjcr hc, execThen_cr_of_some hjcr hicr hc, editCrv_comm hcfg hi hj hab]
  | none => rw [execThen_cr_of_novalue hicr hjcr hc, execThen_cr_of_novalue hjcr hicr hc]

end Sys2Proof.Machine
end

section
/-! What a running sequence does step by step: its commands and their faults, the host kept out of it, and a rule for
each action on a state whose answers from the environment are fixed in advance (spec/44_acquisition_sequences.md R200
to R203). -/

namespace Sys2Proof.Machine

variable {s t u : State} {text : List Act} {ks : List Nat} {bs : List Byte} {evs : List BusEvent} {i : Instr}

/-! ## One action of a running sequence (R200, R201) -/

/-- Settles O7: `step` hands the word to DP, and a fault of its command is followed by the end of the sequence. -/
theorem sequenceCommandRunsOrStopsTheSequence : Obligations.SequenceCommandRunsOrStopsTheSequence := by
  unfold Obligations.SequenceCommandRunsOrStopsTheSequence
  intro s w i rest hw hacq
  rw [step_of_act hacq]
  rcases actDp_cases (s := { s with acq := rest }) hw with ⟨hr, hrun⟩ | ⟨d, hr, hstop⟩
  · exact ⟨fun _ => hrun, fun c hc => by cases hr.symm.trans hc⟩
  · refine ⟨fun hnone => (Option.some_ne_none d (hr.symm.trans hnone)).elim, fun c hc => ?_⟩
    cases hr.symm.trans hc
    exact ⟨_, exec_of_raisedBy hr, rfl, hstop⟩

theorem withRead8_host {dev : Dev} {reg : Byte} {k : Byte → State → State} (hk : ∀ b u, (k b u).host = u.host) :
    (withRead8 dev reg k s).host = s.host :=
  withRead8_elim (P := fun t => t.host = s.host) (fun b env bus => hk b { s with env := env, bus := bus })
    fun d env bus => raise_host { s with env := env, bus := bus } .short d

theorem runAct_host {a : Act} (h : runAct a s = .next t) : t.host = s.host := by
  cases a with
  | loadCrv dev reg =>
    cases h
    exact withRead8_host fun b u => rfl
  | preCheck mask effective =>
    cases h
    refine withRead8_host fun b u => ?_
    split <;> rfl
  | pollRead mask =>
    cases h
    refine withRead8_host fun b u => ?_
    split
    · rfl
    · split <;> rfl
  | dp w =>
    rcases actDp_next_cases w s with hrun | ⟨c, d, hstop⟩
    · exact (runWord_commandFrame (hrun.symm.trans h)).host
    · cases h.symm.trans hstop
      exact raise_host s c d
  | busWriteCrv | exitUnlessResb | ret =>
    simp only [runAct] at h
    split at h <;> cases h <;> rfl
  | busCmd | busWrite | busRead | waitAvail | fill | pollInit | delay | latchTicks | join =>
    cases h
    rfl

/-- Settles O9: while a text remains the step is its next action, and no action touches the host's requests. -/
theorem runningSequenceTakesNoHostRequest : Obligations.RunningSequenceTakesNoHostRequest := by
  unfold Obligations.RunningSequenceTakesNoHostRequest
  intro s t hrunning h
  obtain ⟨a, rest, hacq⟩ := List.exists_cons_of_ne_nil hrunning
  exact runAct_host (s := { s with acq := rest }) ((step_of_act hacq).symm.trans h)

/-! ## Runs of a known length -/

/-- `n` steps lead from `s` to `t`. -/
def Runs (n : Nat) (s t : State) : Prop := Host.Core.run Sys2Proof.core n s = .next t

theorem Runs.of_step (h : step s = .next t) : Runs 1 s t := run_succ_of_step h 0

theorem Runs.cons {n : Nat} (h : step s = .next t) (h' : Runs n t u) : Runs (n + 1) s u :=
  (run_succ_of_step h n).trans h'

/-- A run of at least one step makes a first one. -/
theorem Runs.first_step {n : Nat} (h : Runs (n + 1) s t) : ∃ u, step s = .next u ∧ Runs n u t := by
  simp only [Runs, Host.Core.run] at h
  split at h
  next u hstep => exact ⟨u, hstep, h⟩
  next => cases h
  next => cases h

theorem runs_one : Runs 1 s t ↔ step s = .next t := by
  refine ⟨fun h => ?_, .of_step⟩
  obtain ⟨u, hstep, hu⟩ := h.first_step
  cases hu
  exact hstep

theorem Runs.trans {m n : Nat} (h : Runs m s t) (h' : Runs n t u) : Runs (m + n) s u := by
  induction m generalizing s with
  | zero =>
    cases h
    rwa [Nat.zero_add]
  | succ m ih =>
    rw [Nat.add_right_comm]
    obtain ⟨s', hstep, hrest⟩ := h.first_step
    exact .cons hstep (ih hrest)

/-! ## A state in the middle of a sequence -/

/-- `s` in the middle of a sequence: `text` remains of it, the environment still has the answers `ks` and `bs` to give,
and ACQ has done `evs` on its ports since `s`. -/
def State.during (s : State) (text : List Act) (ks : List Nat) (bs : List Byte) (evs : List BusEvent) : State :=
  { s with acq := text, env := { s.env with counts := ks, bytes := bs }, bus := s.bus ++ evs }

theorem eq_during (hacq : s.acq = text) (hcounts : s.env.counts = ks) (hbytes : s.env.bytes = bs) :
    s = s.during text ks bs [] := by
  subst hacq hcounts hbytes
  rw [State.during, List.append_nil]

theorem emit_during (new : List BusEvent) : emit new (s.during text ks bs evs) = s.during text ks bs (evs ++ new) := by
  simp only [emit, State.during, List.append_assoc]

theorem sameReads_during : SameReads s (s.during text ks bs evs) := ⟨rfl, rfl, rfl, rfl, rfl, rfl, rfl, rfl, rfl⟩

theorem Writes.during {w : State → State} (hw : Writes s i w) (u : State) :
    w (u.during text ks bs evs) = (w u).during text ks bs evs := by
  cases hw <;> rfl

theorem raise_during (c : FaultCode) (d : Dest) :
    raise c d (s.during text ks bs evs) = (raise c d s).during text ks bs evs := by
  cases d <;> rfl

theorem raisedBy_during : raisedBy i (s.during text ks bs evs) = raisedBy i s := by
  cases exec_decides i s with
  | fails c _ hexec => exact (hexec _ sameReads_during).1.trans (hexec s (.refl s)).1.symm
  | writes w _ hexec => exact (hexec _ sameReads_during).1.trans (hexec s (.refl s)).1.symm

theorem command_during (h : command i s = .ok t) :
    command i (s.during text ks bs evs) = .ok (t.during text ks bs evs) := by
  cases command_decides i s with
  | fails c _ hf => cases (hf s (.refl s)).symm.trans h
  | writes w hw hf =>
    cases (hf s (.refl s)).symm.trans h
    rw [hf _ sameReads_during, hw.during]

theorem returnValue_during (k : RetKind) : returnValue k (s.during text ks bs evs) = returnValue k s := by
  cases k <;> rfl

/-! ## What each action does to a state in the middle of a sequence -/

theorem Runs.of_act {a : Act} (h : runAct a (s.during text ks bs evs) = .next t) :
    Runs 1 (s.during (a :: text) ks bs evs) t :=
  .of_step ((step_of_act rfl).trans h)

theorem runs_start {call : DriverCall} {rest : List HostReq} (hacq : s.acq = []) (hhost : s.host = .start call :: rest)
    (htext : textOf s.cfg call = text) (hcounts : s.env.counts = ks) (hbytes : s.env.bytes = bs) :
    Runs 1 s ({ s with host := rest }.during text ks bs []) :=
  .of_step ((step_of_request hacq hhost).trans
    (congrArg _ (eq_during (s := { s with host := rest, acq := textOf s.cfg call }) htext hcounts hbytes)))

theorem runs_cmd (hwf : i.WellFormed) (hok : command i s = .ok t) :
    Runs 1 (s.during (cmd i :: text) ks bs evs) (t.during text ks bs evs) :=
  .of_step (step_of_cmd hwf rfl (command_during hok))

/-- A fault stops the sequence (R201). -/
theorem runs_cmd_fault {c : FaultCode} (hwf : i.WellFormed) (hc : raisedBy i s = some c) :
    Runs 1 (s.during (cmd i :: text) ks bs evs)
      ({ raise c (destOf i) s with ret := some .nothing }.during [] ks bs evs) := by
  refine .of_act ?_
  rcases actDp_cases (s := s.during text ks bs evs) (decode_encode hwf) with ⟨hr, -⟩ | ⟨d, hr, hstop⟩
  · cases (raisedBy_during.symm.trans hr).symm.trans hc
  · cases (raisedBy_during.symm.trans hr).symm.trans hc
    rw [raise_during] at hstop
    exact hstop

theorem runs_ret {k : RetKind} {v : Ret} (hv : returnValue k s = some v) :
    Runs 1 (s.during (.ret k :: text) ks bs evs) ({ s with ret := some v }.during [] ks bs evs) :=
  .of_step (step_of_ret rfl ((returnValue_during (s := s) k).trans hv))

theorem runs_join : Runs 1 (s.during (.join :: text) ks bs evs) (s.during text ks bs evs) := .of_step rfl

/-- An action that only does something on ACQ's ports. -/
theorem runs_emit {a : Act} {new : List BusEvent}
    (ha : runAct a (s.during text ks bs evs) = .next (emit new (s.during text ks bs evs))) :
    Runs 1 (s.during (a :: text) ks bs evs) (s.during text ks bs (evs ++ new)) :=
  .of_act (ha.trans (congrArg _ (emit_during new)))

theorem runs_delay (ms : Nat) :
    Runs 1 (s.during (.delay ms :: text) ks bs evs) (s.during text ks bs (evs ++ [.delay ms])) :=
  runs_emit rfl

theorem runs_busCmd (dev : Dev) (b : Byte) : Runs 1 (s.during (.busCmd dev b :: text) ks bs evs)
    (s.during text ks bs (evs ++ [.beginTransaction (devAddr s.cfg dev), .write b, .endTransaction true])) :=
  runs_emit rfl

theorem runs_busWrite (dev : Dev) (reg v : Byte) : Runs 1 (s.during (.busWrite dev reg v :: text) ks bs evs)
    (s.during text ks bs (evs ++ writeEvents s.cfg dev reg v)) :=
  runs_emit rfl

theorem runs_busWriteCrv {c : Byte} (dev : Dev) (reg : Byte) (hcrv : s.crv = some c) :
    Runs 1 (s.during (.busWriteCrv dev reg :: text) ks bs evs)
      (s.during text ks bs (evs ++ writeEvents s.cfg dev reg c)) := by
  refine runs_emit ?_
  simp only [runAct, show (s.during text ks bs evs).crv = some c from hcrv]
  rfl

theorem runs_latchTicks {v : Nat} {vs : List Nat} (hticks : s.env.ticks = v :: vs) :
    Runs 1 (s.during (.latchTicks :: text) ks bs evs)
      ({ s with ticks := some (BitVec.ofNat 32 v), env := { s.env with ticks := vs } }.during text ks bs
        (evs ++ [BusEvent.monotonicTicks])) := by
  refine .of_act ?_
  rw [runAct, actLatchTicks, drawTicks_fixed (e := (s.during text ks bs evs).env) hticks, emit_during]
  rfl

theorem runs_exitUnlessResb {b : Bool} (hvalid : s.resbv = true) (hb : s.resb = some b) :
    Runs 1 (s.during (.exitUnlessResb :: text) ks bs evs)
      (s.during (if b then text else afterReturn text) ks bs evs) := by
  have hview : hostView .resb (s.during text ks bs evs) = some (.flag b) := by
    simp only [hostView, State.during, hvalid, hb]
    rfl
  refine .of_act ?_
  rw [runAct, hview]
  cases b <;> rfl

theorem withRead8_during (dev : Dev) (reg b : Byte) (f : Byte → State → State) :
    withRead8 dev reg f (s.during text (1 :: ks) (b :: bs) evs) =
      f b (s.during text ks bs (evs ++ read8Events s.cfg dev reg)) := by
  rw [withRead8, busRead8_fixed (ks := ks) (b := b) (bs := bs) rfl rfl]
  simp only [emit, State.during, List.append_assoc]
  rfl

/-- A one-byte read that delivers its byte `b`, and what follows it. -/
theorem Runs.of_read8 {a : Act} {dev : Dev} {reg b : Byte} {f : Byte → State → State}
    (ha : runAct a (s.during text (1 :: ks) (b :: bs) evs) =
      .next (withRead8 dev reg f (s.during text (1 :: ks) (b :: bs) evs)))
    (ht : f b (s.during text ks bs (evs ++ read8Events s.cfg dev reg)) = t) :
    Runs 1 (s.during (a :: text) (1 :: ks) (b :: bs) evs) t :=
  .of_act (ha.trans (congrArg _ ((withRead8_during dev reg b f).trans ht)))

theorem runs_loadCrv (reg b : Byte) : Runs 1 (s.during (.loadCrv .ba reg :: text) (1 :: ks) (b :: bs) evs)
    ({ s with crv := some b }.during text ks bs (evs ++ read8Events s.cfg .ba reg)) :=
  .of_read8 rfl rfl

end Sys2Proof.Machine
end

section
/-! The read-modify-writes of the barometric sensor's control registers, and the pre-check that may trigger a conversion
(spec/44_acquisition_sequences.md R211, R212, R215). -/

namespace Sys2Proof.Machine

variable {s : State} {text : List Act} {ks : List Nat} {bs : List Byte} {evs : List BusEvent}

/-! ## Read-modify-write (R211, R212) -/

theorem command_cr_of_some {i : Instr} {c : Byte} (hi : i.family = .cr) (hc : s.crv = some c) :
    command i s = .ok { s with crv := some (editCrv s.cfg i c) } :=
  (command_of_cr hi s).trans (transformCrv_of_some hc)

theorem runs_readModifyWrite {op : Instr} (hop : op.family = .cr) (hwf : op.WellFormed) (reg c : Byte) :
    Runs 3 (s.during (readModifyWrite reg op ++ text) (1 :: ks) (c :: bs) evs)
      ({ s with crv := some (editCrv s.cfg op c) }.during text ks bs
        (evs ++ read8Events s.cfg .ba reg ++ writeEvents s.cfg .ba reg (editCrv s.cfg op c))) :=
  (runs_loadCrv reg c).trans <|
    (runs_cmd (s := { s with crv := some c }) hwf (command_cr_of_some hop rfl)).trans (runs_busWriteCrv .ba reg rfl)

theorem textOf_setter {c : Cfg} {n : BitVec 8} {call : DriverCall} {reg : Byte} {op : Instr}
    (h : (call, reg, op) ∈ setters c n) :
    textOf c call = textSetter reg op ∧ op.family = .cr ∧ op.WellFormed := by
  simp only [setters, List.mem_cons, List.not_mem_nil, or_false, Prod.mk.injEq] at h
  obtain h | h | h | h | h | h := h <;> obtain ⟨rfl, rfl, rfl⟩ := h <;> refine ⟨rfl, rfl, ?_⟩
  exacts [rfl, rfl, rfl, rfl, wellFormed_crOsr.2 n.isLt, rfl]

/-- Settles O48: the call, one read-modify-write, and the return. -/
theorem settersReadModifyWrite : Obligations.SettersReadModifyWrite := by
  unfold Obligations.SettersReadModifyWrite
  intro s call reg op n rest c ks bs hmem hacq hhost hcounts hbytes
  obtain ⟨htext, hop, hwf⟩ := textOf_setter hmem
  have hstart := runs_start hacq hhost htext hcounts hbytes
  refine ⟨_, editCrv s.cfg op c, (hstart.trans (runs_readModifyWrite hop hwf reg c)).trans (runs_ret rfl),
    exec_cr_of_some hop rfl, ?_⟩
  simp only [State.during, List.nil_append, List.append_assoc]

theorem editCrv_crOstclr (cfg : Cfg) (c : Byte) : editCrv cfg .crOstclr c = clrbit c cfg.baOstBit.val :=
  (and_not_eq_replaceBits c _).symm

theorem editCrv_crOstset (cfg : Cfg) (c : Byte) : editCrv cfg .crOstset c = setbit c cfg.baOstBit.val :=
  (or_eq_replaceBits c _).symm

theorem runs_toggle (c1 c2 : Byte) :
    Runs 6 (s.during (textToggle s.cfg ++ text) (1 :: 1 :: ks) (c1 :: c2 :: bs) evs)
      ({ s with crv := some (setbit c2 s.cfg.baOstBit.val) }.during text ks bs
        (evs ++ toggleEvents s.cfg c1 c2)) := by
  have hclear := runs_readModifyWrite (s := s) (text := readModifyWrite s.cfg.baCtrlReg1 .crOstset ++ text)
    (ks := 1 :: ks) (bs := c2 :: bs) (evs := evs) (op := .crOstclr) rfl rfl s.cfg.baCtrlReg1 c1
  have hrun := hclear.trans (runs_readModifyWrite (op := .crOstset) rfl rfl s.cfg.baCtrlReg1 c2)
  simp only [editCrv_crOstclr, editCrv_crOstset] at hrun
  simp only [toggleEvents, ← List.append_assoc]
  exact hrun

/-- Settles O49: the call, the toggle and the return. -/
theorem toggleOneShotClearsThenSets : Obligations.ToggleOneShotClearsThenSets := by
  unfold Obligations.ToggleOneShotClearsThenSets
  intro s rest c1 c2 ks bs hacq hhost hcounts hbytes
  have hrun := ((runs_start hacq hhost rfl hcounts hbytes).trans (runs_toggle c1 c2)).trans (runs_ret (k := .unit) rfl)
  refine ⟨_, clrbit c1 s.cfg.baOstBit.val, setbit c2 s.cfg.baOstBit.val, hrun, clrbit_getLsbD c1 _,
    setbit_getLsbD c2 _, rfl, rfl, rfl, rfl, ?_⟩
  simp only [State.during, toggleEvents, List.nil_append, List.append_assoc]

/-! ## The pre-check (R215) -/

theorem ready_eq_false {st mask : Byte} : ready st mask = false ↔ st &&& mask = 0 := by
  simp [ready]

theorem runs_preCheck (mask st : Byte) (eff : Bool) :
    Runs 1 (s.during (.preCheck mask eff :: text) (1 :: ks) (st :: bs) evs)
      (s.during (if eff = true ∧ st &&& mask = 0 then textToggle s.cfg ++ text else text) ks bs
        (evs ++ read8Events s.cfg .ba s.cfg.baStatus)) := by
  refine .of_read8 rfl ?_
  simp only [Bool.and_eq_true, Bool.not_eq_true', ready_eq_false]
  split <;> rfl

/-- Settles O50: the byte read is tested against the mask, and only the effective pre-check puts a toggle first. -/
theorem preCheckTogglesOnlyWhenEffective : Obligations.PreCheckTogglesOnlyWhenEffective := by
  unfold Obligations.PreCheckTogglesOnlyWhenEffective
  intro s mask b eff rest ks bs hacq hcounts hbytes
  have hrun := runs_preCheck (s := s) (text := rest) (ks := ks) (bs := bs) (evs := []) mask b eff
  rw [← eq_during hacq hcounts hbytes] at hrun
  exact runs_one.1 hrun

/-- The whole pre-check, with the toggle where it triggers one. -/
theorem runs_preCheck_whole {mask : Byte} {eff : Bool} {first : List Byte} {pre : List BusEvent}
    (hpre : preCheckEvents s.cfg mask eff first = some pre) :
    ∃ crv, Runs (3 * first.length - 2)
      (s.during (.preCheck mask eff :: text) (List.replicate first.length 1 ++ ks) (first ++ bs) evs)
      ({ s with crv := crv }.during text ks bs (evs ++ pre)) := by
  unfold preCheckEvents at hpre
  split at hpre
  next st =>
    split at hpre
    next => cases hpre
    next hskip =>
      cases hpre
      have hread := runs_preCheck (s := s) (text := text) (ks := ks) (bs := bs) (evs := evs) mask st eff
      rw [if_neg hskip] at hread
      exact ⟨s.crv, hread⟩
  next st c1 c2 =>
    split at hpre
    next htrigger =>
      cases hpre
      have hread := runs_preCheck (s := s) (text := text) (ks := 1 :: 1 :: ks) (bs := c1 :: c2 :: bs) (evs := evs)
        mask st eff
      rw [if_pos htrigger] at hread
      rw [← List.append_assoc]
      exact ⟨_, hread.trans (runs_toggle c1 c2)⟩
    next => cases hpre
  next => cases hpre

end Sys2Proof.Machine
end

section
/-! Bursts and what a decode makes of their bytes, and the sequences of the humidity and temperature sensor
(spec/20_memory.md R62, spec/44_acquisition_sequences.md R204 to R206). -/

namespace Sys2Proof.Machine

variable {s t : State} {text : List Act} {ks : List Nat} {bs : List Byte} {evs : List BusEvent} {i : Instr}

/-! ## The burst (R62) -/

/-- `s` with the bytes of a burst in its sample buffer. -/
def State.withSample (s : State) (data : List Byte) : State :=
  { s with sb := Vector.ofFn fun i => data[i.val]?, sbcnt := BitVec.ofNat 3 data.length }

theorem withSample_count (data : List Byte) (h : data.length ≤ 7) : (s.withSample data).sbcnt.toNat = data.length :=
  (BitVec.toNat_ofNat _ _).trans (Nat.mod_eq_of_lt (by omega))

theorem withSample_sb (data : List Byte) (i : Fin 7) : (s.withSample data).sb[i] = data[i.val]? :=
  Vector.getElem_ofFn i.isLt

/-- What a burst of which `k` bytes arrive does on the ports. -/
def burstTraffic (c : Cfg) (dev : Dev) (reg : Option Byte) (n k : Nat) : List BusEvent :=
  readPhase c dev reg ++ [.requestRead (devAddr c dev) n] ++ List.replicate k .read

theorem during_withSample {data : List Byte} {k : Nat} (hlen : data.length = min k 7) (dev : Dev) (reg : Option Byte)
    (n : Nat) :
    { s.during text ks bs evs with
      sb := Vector.ofFn fun i => data[i.val]?, sbcnt := BitVec.ofNat 3 (min k 7)
      bus := s.bus ++ evs ++ readPhase s.cfg dev reg ++ [.requestRead (devAddr s.cfg dev) n] ++
        List.replicate (min k 7) .read } =
      (s.withSample data).during text ks bs (evs ++ burstTraffic s.cfg dev reg n data.length) := by
  simp only [State.during, State.withSample, burstTraffic, hlen, List.append_assoc]

theorem runs_burst {data : List Byte} {k : Nat} (hlen : data.length = min k 7) (dev : Dev) (reg : Option Byte)
    (n : Nat) :
    Runs 2 (s.during (.busRead dev reg n false :: text) (k :: ks) (data ++ bs) evs)
      ((s.withSample data).during text ks bs (evs ++ burstTraffic s.cfg dev reg n data.length)) := by
  rw [← during_withSample hlen dev reg n]
  exact run_burst (s := s.during _ (k :: ks) (data ++ bs) evs) (m := 0) (ws := []) (wait := false) rfl rfl
    nofun rfl hlen 0

/-- The burst of a device that makes ACQ wait for its data (R65). -/
theorem runs_waited_burst {data : List Byte} {k m : Nat} {ws : List (Option Nat)} (hlen : data.length = min k 7)
    (hwaits : s.env.waits = some m :: ws) (dev : Dev) (reg : Option Byte) (n : Nat) :
    Runs (m + 3) (s.during (.busRead dev reg n true :: text) (k :: ks) (data ++ bs) evs)
      (({ s with env := { s.env with waits := ws } }.withSample data).during text ks bs
        (evs ++ burstTraffic s.cfg dev reg n data.length)) := by
  rw [← during_withSample hlen dev reg n, ← Nat.zero_add (m + 3)]
  exact run_burst (s := s.during _ (k :: ks) (data ++ bs) evs) (wait := true) rfl rfl (fun _ => hwaits) rfl hlen 0

/-! ## Commands that raise nothing -/

/-- A command with the results as its destination that leaves a valid one has raised nothing (R241). -/
theorem command_of_exec_res (hd : destOf i = .res) (h : exec i s = .next t) (hv : t.resv ≠ 0) :
    command i s = .ok t := by
  rcases exec_cases h with ⟨-, hok⟩ | ⟨c, -, rfl⟩
  · exact hok
  · exact absurd (hd ▸ rfl) hv

/-- The same of a command with the boolean result as its destination. -/
theorem command_of_exec_resb (hd : destOf i = .resb) (h : exec i s = .next t) (hv : t.resbv = true) :
    command i s = .ok t := by
  rcases exec_cases h with ⟨-, hok⟩ | ⟨c, -, rfl⟩
  · exact hok
  · rw [hd] at hv
    cases hv

/-- Under the configuration `c` the command turns the bytes of a burst into the one result `value`. -/
def Decodes (c : Cfg) (i : Instr) (data : List Byte) (value : Rat) : Prop :=
  ∀ u : State, u.cfg = c → command i (u.withSample data) = .ok (writeScalar value (u.withSample data))

theorem decodes_of_exec {c : Cfg} {data : List Byte} {value : Rat} (hd : destOf i = .res)
    (h : ∀ u : State, u.cfg = c → exec i (u.withSample data) = .next (writeScalar value (u.withSample data))) :
    Decodes c i data value :=
  fun u hu => command_of_exec_res hd (h u hu) (by simp [resvScalar])

theorem decodes_baAlt (c : Cfg) (b0 b1 b2 : Byte) :
    Decodes c .baAlt [b0, b1, b2] (altValue c.altFracHigh b0 b1 b2) := by
  refine decodes_of_exec rfl fun u hu => ?_
  rw [← hu]
  exact exec_baAlt_of_sample (withSample_sb _ 0) (withSample_sb _ 1) (withSample_count _ (by simp)) (withSample_sb _ 2)

theorem decodes_baPres (c : Cfg) (b0 b1 b2 : Byte) : Decodes c .baPres [b0, b1, b2] (presValue b0 b1 b2) :=
  decodes_of_exec rfl fun _ _ => exec_baPres_of_sample (withSample_sb _ 0) (withSample_sb _ 1)
    (withSample_count _ (by simp)) (withSample_sb _ 2)

theorem decodes_baTemp (c : Cfg) (b0 b1 : Byte) : Decodes c .baTemp [b0, b1] (baTempValue b0 b1) :=
  decodes_of_exec rfl fun _ _ => exec_baTemp_of_sample (withSample_sb _ 0) (withSample_sb _ 1)
    (withSample_count _ (by simp))

theorem decodes_htTemp (c : Cfg) (b0 b1 b2 : Byte) : Decodes c .htTemp [b0, b1, b2] (htTempValue (be16u b0 b1)) := by
  refine decodes_of_exec rfl fun u _ => ?_
  rw [be16u_eq]
  exact exec_htTemp_of_sample (withSample_count _ (by simp)) (withSample_sb _ 0) (withSample_sb _ 1)

theorem decodes_htHum (c : Cfg) (b0 b1 b2 : Byte) : Decodes c .htHum [b0, b1, b2] (htHumValue (be16u b0 b1)) := by
  refine decodes_of_exec rfl fun u _ => ?_
  rw [be16u_eq]
  exact exec_htHum_of_sample (withSample_count _ (by simp)) (withSample_sb _ 0) (withSample_sb _ 1)

/-! ## Return values -/

theorem returnValue_number {f : F} (hv : s.resv.getLsbD 0 = true) (h0 : s.res0 = some f) :
    returnValue .number s = some (.number f) := by
  simp only [returnValue, hostView, resultValid, hv, h0]
  rfl

theorem resvScalar_valid : resvScalar.getLsbD 0 = true := by decide

theorem returnValue_bool {b : Bool} (hv : s.resbv = true) (hb : s.resb = some b) :
    returnValue .bool s = some (.bool b) := by
  simp only [returnValue, hostView, hv, hb]
  rfl

/-! ## The humidity and temperature sensor (R204 to R206) -/

/-- The three sequences of the sensor have one shape: a command, a fixed delay, a burst that is waited for, a decode
that raises nothing, and a return. -/
theorem runs_htSequence {call : DriverCall} {rest : List HostReq} {m k n : Nat} {ws : List (Option Nat)}
    {data : List Byte} {cmdByte : Byte} {ms : Nat} {reg : Option Byte} {kind : RetKind} {v : Ret}
    (hacq : s.acq = []) (hhost : s.host = .start call :: rest)
    (htext : textOf s.cfg call = [.busCmd .ht cmdByte, .delay ms, .busRead .ht reg n true, cmd i, .ret kind])
    (hwaits : s.env.waits = some m :: ws) (hcounts : s.env.counts = k :: ks) (hbytes : s.env.bytes = data ++ bs)
    (hlen : data.length = min k 7) (hwf : i.WellFormed)
    (hok : command i ({ s with host := rest, env := { s.env with waits := ws } }.withSample data) = .ok t)
    (hret : returnValue kind t = some v) :
    Runs (m + 8) s ({ t with ret := some v }.during [] ks bs
      ([BusEvent.beginTransaction s.cfg.htAddr, .write cmdByte, .endTransaction true, .delay ms] ++
        burstTraffic s.cfg .ht reg n data.length)) := by
  have hstart := runs_start hacq hhost htext hcounts hbytes
  have hsent := (hstart.trans (runs_busCmd .ht cmdByte)).trans (runs_delay ms)
  have hread := hsent.trans (runs_waited_burst (s := { s with host := rest }) hlen hwaits .ht reg n)
  have hrun := hread.trans ((runs_cmd hwf hok).trans (runs_ret hret))
  rw [show 1 + 1 + 1 + (m + 3) + (1 + 1) = m + 8 by omega] at hrun
  exact hrun

/-- Settles O54: the status byte is compared, and the two measurements are decoded, from the bytes that arrived. -/
theorem htSequencesReturnTheDecodedValue : Obligations.HtSequencesReturnTheDecodedValue := by
  unfold Obligations.HtSequencesReturnTheDecodedValue
  refine fun s rest m ws b0 b1 b2 ks bs hacq hwaits => ⟨fun hhost hcounts hbytes => ?_, ?_⟩
  · have hcheck := command_of_exec_resb (i := .htInitchk) rfl
      (exec_htInitchk_of_status (s := { s with host := rest, env := { s.env with waits := ws } }.withSample [b0])
        (withSample_count _ (by simp)) (withSample_sb _ 0)) rfl
    exact ⟨_, runs_htSequence (data := [b0]) hacq hhost rfl hwaits hcounts hbytes rfl rfl hcheck
      (returnValue_bool rfl rfl), rfl, rfl, rfl⟩
  · intro call cmdByte value hmem hhost hcounts hbytes
    obtain ⟨i, hwf, htext, hdecode⟩ : ∃ i : Instr, i.WellFormed ∧ textOf s.cfg call = [.busCmd .ht cmdByte,
        .delay s.cfg.htConvMs, .busRead .ht none 3 true, cmd i, .ret .number] ∧
        Decodes s.cfg i [b0, b1, b2] value := by
      simp only [List.mem_cons, List.not_mem_nil, or_false, Prod.mk.injEq] at hmem
      obtain ⟨rfl, rfl, rfl⟩ | ⟨rfl, rfl, rfl⟩ := hmem
      · exact ⟨.htTemp, rfl, rfl, decodes_htTemp s.cfg b0 b1 b2⟩
      · exact ⟨.htHum, rfl, rfl, decodes_htHum s.cfg b0 b1 b2⟩
    exact ⟨_, runs_htSequence (data := [b0, b1, b2]) hacq hhost htext hwaits hcounts hbytes rfl hwf (hdecode _ rfl)
      (returnValue_number resvScalar_valid rfl), rfl, rfl, rfl⟩

end Sys2Proof.Machine
end

section
/-! The gyroscope's sequences: the identity check with the configuration that follows it, and the event
(spec/44_acquisition_sequences.md R207, R208). -/

namespace Sys2Proof.Machine

variable {s : State} {text : List Act} {ks : List Nat} {bs : List Byte} {evs : List BusEvent} {i : Instr}

/-! ## The start of the driver (R207) -/

/-- `begin` up to the test of the identity's outcome, which leaves the writes or the end of the text. -/
theorem runs_begin_checked {rest : List HostReq} {r : BitVec 2} {b : Byte} {ident : Bool} {t : State}
    (hacq : s.acq = []) (hhost : s.host = .start (.beginGy r) :: rest) (hcounts : s.env.counts = 1 :: ks)
    (hbytes : s.env.bytes = b :: bs)
    (hcheck : exec (.gyBegin r.toNat) ({ s with host := rest }.withSample [b]) = .next (writeCheck ident t)) :
    Runs 5 s ((writeCheck ident t).during (if ident then
        [.busWrite .gy s.cfg.gyCtrlReg1 0x00, .busWrite .gy s.cfg.gyCtrlReg1 s.cfg.gyCr1Reset,
          .busWrite .gy s.cfg.gyCtrlReg1 s.cfg.gyCr1Run, .delay s.cfg.gySettleMs, .join, .ret .bool]
      else [.join, .ret .bool]) ks bs (read8Events s.cfg .gy s.cfg.gyWhoAmI)) := by
  have hread := (runs_start hacq hhost rfl hcounts hbytes).trans
    (runs_burst (s := { s with host := rest }) (data := [b]) rfl .gy (some s.cfg.gyWhoAmI) 1)
  have hok := command_of_exec_resb (i := .gyBegin r.toNat) rfl hcheck rfl
  exact (hread.trans (runs_cmd (wellFormed_gyBegin.2 r.isLt) hok)).trans (runs_exitUnlessResb rfl rfl)

/-- Settles O55: the identity check decides whether the writes follow or the text is left at its end. -/
theorem beginConfiguresOrReturnsFalse : Obligations.BeginConfiguresOrReturnsFalse := by
  unfold Obligations.BeginConfiguresOrReturnsFalse
  intro s rest r b ks bs hacq hhost hcounts hbytes
  have hcount := withSample_count (s := { s with host := rest }) [b] (by simp)
  have hbyte := withSample_sb (s := { s with host := rest }) [b] 0
  have hrange : BitVec.ofNat 2 r.toNat = r := by rw [BitVec.ofNat_toNat, BitVec.setWidth_eq]
  refine ⟨fun hmatch => ?_, fun hne => ?_⟩
  · have hchecked := runs_begin_checked hacq hhost hcounts hbytes
      (exec_gyBegin_of_match r.toNat hcount (hbyte.trans (congrArg some hmatch)))
    have hwritten := ((hchecked.trans (runs_busWrite .gy _ _)).trans (runs_busWrite .gy _ _)).trans
      (runs_busWrite .gy _ _)
    have hrun := (hwritten.trans (runs_delay _)).trans (runs_join.trans (runs_ret (returnValue_bool rfl rfl)))
    refine ⟨_, hrun, rfl, rfl, congrArg some hrange, rfl, rfl, ?_⟩
    simp only [State.during, List.append_assoc]
    rfl
  · have hchecked := runs_begin_checked hacq hhost hcounts hbytes
      (exec_gyBegin_of_mismatch r.toNat hcount hbyte hne)
    exact ⟨_, hchecked.trans (runs_join.trans (runs_ret (returnValue_bool rfl rfl))), rfl, rfl, rfl, rfl, rfl, rfl⟩

/-! ## The event (R208) -/

theorem returnValue_event {x y z : F} {now : Tick} (hv : s.resv = resvTriple) (h0 : s.res0 = some x)
    (h1 : s.res1 = some y) (h2 : s.res2 = some z) (hevts : s.evts = some now) :
    returnValue .event s = some (.event x y z now s.cfg.gyTypeTag s.cfg.gySensorId) := by
  unfold returnValue hostView
  rw [hv, h0, h1, h2, hevts]
  rfl

/-- The registers when `getEvent` has latched the tick `v`. -/
def State.latched (s : State) (rest : List HostReq) (v : Nat) (vs : List Nat) : State :=
  { s with host := rest, ticks := some (BitVec.ofNat 32 v), env := { s.env with ticks := vs } }

theorem runs_event_sampled {rest : List HostReq} {v k : Nat} {vs : List Nat} {data : List Byte} (hacq : s.acq = [])
    (hhost : s.host = .start .getEvent :: rest) (hticks : s.env.ticks = v :: vs) (hcounts : s.env.counts = k :: ks)
    (hbytes : s.env.bytes = data ++ bs) (hlen : data.length = min k 7) :
    Runs 4 s (((s.latched rest v vs).withSample data).during [cmd .gyEvent, .ret .event] ks bs
      ([BusEvent.monotonicTicks] ++
        burstTraffic s.cfg .gy (some (s.cfg.gyStatus ||| s.cfg.gyAutoinc)) 7 data.length)) :=
  ((runs_start hacq hhost rfl hcounts hbytes).trans (runs_latchTicks (s := { s with host := rest }) hticks)).trans
    (runs_burst hlen .gy _ 7)

theorem raisedBy_gyEvent_of_uninitialized (hgy : s.gyst = .uninitialized) : raisedBy .gyEvent s = some .notcfg := by
  simp only [raisedBy, command, commandGyEvent, needActive_of_uninitialized hgy]
  rfl

/-- Before `begin`, or with a short burst, GY.EVENT raises its fault (R251). -/
theorem raisedBy_gyEvent_of_stop {k : Nat} (hcount : s.sbcnt.toNat = min k 7)
    (hstop : (s.gyst = .active ∧ k < 7) ∨ s.gyst = .uninitialized) :
    ∃ c, raisedBy .gyEvent s = some c ∧ c.mask = if s.gyst = .active then 0b0001 else 0b0100 := by
  rcases hstop with ⟨hgy, hk⟩ | hgy
  · exact ⟨.short, raisedBy_short_of_wrong_count rfl (fun _ => hgy) (by omega), by rw [hgy]; rfl⟩
  · exact ⟨.notcfg, raisedBy_gyEvent_of_uninitialized hgy, by rw [hgy]; rfl⟩

/-- Settles O56: with the sample read, GY.EVENT gives the triple that is returned, or its fault stops the sequence. -/
theorem getEventReturnsTheEventOrStops : Obligations.GetEventReturnsTheEventOrStops := by
  unfold Obligations.GetEventReturnsTheEventOrStops
  intro s rest v vs k ks bytes more hacq hhost hticks hcounts hbytes hlen
  have hsampled := runs_event_sampled hacq hhost hticks hcounts hbytes hlen
  have hcount := withSample_count (s := s.latched rest v vs) bytes (hlen ▸ min_le_right k 7)
  have hbyte := withSample_sb (s := s.latched rest v vs) bytes
  refine ⟨fun r b0 b1 b2 b3 b4 b5 b6 hgy hrange hdata hk => ?_, fun hstop => ?_⟩
  · subst hdata
    have hevent := exec_gyEvent_of_sample (s := (s.latched rest v vs).withSample [b0, b1, b2, b3, b4, b5, b6]) hgy
      hcount rfl hrange (hbyte 1) (hbyte 2) (hbyte 3) (hbyte 4) (hbyte 5) (hbyte 6)
    have hdecoded := hsampled.trans (runs_cmd rfl (command_of_exec_res rfl hevent (by simp [resvTriple])))
    refine ⟨_, hdecoded.trans (runs_ret (returnValue_event rfl rfl rfl rfl rfl)), rfl, rfl, ?_⟩
    simp only [State.during, List.append_assoc]
    rfl
  · obtain ⟨c, hc, hmask⟩ := raisedBy_gyEvent_of_stop (s := (s.latched rest v vs).withSample bytes)
      (hcount.trans hlen) hstop
    have hstopped := hsampled.trans (runs_cmd_fault rfl hc)
    exact ⟨_, hstopped, rfl, rfl, congrArg (s.flt ||| ·) hmask, rfl, rfl, rfl, rfl, rfl⟩

end Sys2Proof.Machine
end

section
/-! The barometric reads when a conversion is ready at the first status read: their values, converted or not, and their
triggers (spec/44_acquisition_sequences.md R214 to R219). -/

namespace Sys2Proof.Machine

variable {s : State} {text : List Act} {ks : List Nat} {bs : List Byte} {evs : List BusEvent} {i : Instr}

/-! ## A result and its conversion (R159, R160) -/

theorem isInfinite_fl_sixteenths (n : NumKind) {k : Int} (hk : k.natAbs < 2 ^ 20) :
    isInfinite (fl n ((k : Rat) / 16)) = false := by
  cases n with
  | custom => rfl
  | binary32 =>
    have hint : |k| ≤ 2 ^ 20 := by rw [Int.abs_eq_natAbs]; omega
    refine Bool.eq_false_iff.2 fun hinf => absurd ((b32Infinite_iff _).1 hinf) (not_le.2 ?_)
    calc |(k : Rat) / 16| = ((|k| : Int) : Rat) / 16 := by rw [abs_div, Int.cast_abs]; norm_num
      _ ≤ ((2 ^ 20 : Int) : Rat) / 16 := by gcongr
      _ < 2 ^ 128 - 2 ^ 103 := by norm_num

theorem isInfinite_fl_altValue (n : NumKind) (high : Bool) (b0 b1 b2 : Byte) :
    isInfinite (fl n (altValue high b0 b1 b2)) = false := by
  have hint : be16u b0 b1 < 2 ^ 16 := (be16 b0 b1).isLt
  have hfrac := altFrac_lt high b2
  rw [altValue_eq_sixteenths]
  exact isInfinite_fl_sixteenths n (by omega)

theorem isInfinite_fl_baTempValue (n : NumKind) (b0 b1 : Byte) :
    isInfinite (fl n (baTempValue b0 b1)) = false := by
  have hpat := (tempPattern b0 b1).isLt
  have hneg := (neg (tempPattern b0 b1)).isLt
  rw [baTempValue_eq_sixteenths]
  exact isInfinite_fl_sixteenths n (by split <;> omega)

/-- `tail`, the end of a text that has put `value` into `RES0`, leaves `w` there and returns it, in `n` steps. -/
def Concludes (tail : List Act) (n : Nat) (value w : Rat) : Prop :=
  ∀ (s : State) (ks : List Nat) (bs : List Byte) (evs : List BusEvent), s.resv = resvScalar →
    s.res0 = some (fl s.cfg.num value) →
    Runs n (s.during tail ks bs evs)
      ({ s with res0 := some (fl s.cfg.num w), ret := some (.number (fl s.cfg.num w)) }.during [] ks bs evs)

theorem concludes_return (value : Rat) : Concludes [.join, .ret .number] 2 value value := by
  intro s ks bs evs hresv hres0
  have hret := returnValue_number (s := s) (hresv ▸ resvScalar_valid) hres0
  have hrun := runs_join.trans (runs_ret (text := []) (ks := ks) (bs := bs) (evs := evs) hret)
  rw [← hres0]
  exact hrun

/-- A conversion of a value that the format holds exactly is one rounding of the converted value. -/
theorem concludes_conversion {g : Rat → Rat} {value : Rat} (hwf : i.WellFormed)
    (hi : ∀ s, command i s = convertRes0 g s) (hval : ∀ n, val (fl n value) = value)
    (hfinite : ∀ n, isInfinite (fl n value) = false) :
    Concludes [.join, cmd i, .ret .number] 3 value (g value) := by
  intro s ks bs evs hresv hres0
  have hvalid : s.resv.getLsbD 0 = true := hresv ▸ resvScalar_valid
  have hok : command i s = .ok { s with res0 := some (fl s.cfg.num (g value)) } := by
    rw [hi, convertRes0_of_ok (needRes0_of_valid hvalid hres0), convert_of_not_infinite _ _ (hfinite _), hval]
  exact runs_join.trans ((runs_cmd hwf hok).trans (runs_ret (returnValue_number hvalid rfl)))

/-! ## The bounded poll, with a conversion ready at its first read (R213) -/

theorem ready_eq_true {st mask : Byte} : ready st mask = true ↔ st &&& mask ≠ 0 := by
  simp [ready]

theorem runs_poll_ready {mask st : Byte} (hready : st &&& mask ≠ 0) :
    Runs 2 (s.during (.pollInit :: .pollRead mask :: text) (1 :: ks) (st :: bs) evs)
      ({ s with pollcnt := 0 }.during text ks bs (evs ++ read8Events s.cfg .ba s.cfg.baStatus)) := by
  have hinit : Runs 1 (s.during (.pollInit :: .pollRead mask :: text) (1 :: ks) (st :: bs) evs)
      ({ s with pollcnt := 0 }.during (.pollRead mask :: text) (1 :: ks) (st :: bs) evs) := .of_act rfl
  exact hinit.trans (.of_read8 rfl (if_pos (ready_eq_true.2 hready)))

/-- The part the barometric reads share: the poll, the burst, and the decode. -/
theorem runs_measure {mask st : Byte} {data : List Byte} {value : Rat} (hready : st &&& mask ≠ 0)
    (hlen : data.length ≤ 7) (hwf : i.WellFormed) (hdecode : Decodes s.cfg i data value) (reg : Byte) :
    Runs 5 (s.during (.pollInit :: .pollRead mask :: .busRead .ba (some reg) data.length false :: cmd i :: text)
        (1 :: data.length :: ks) (st :: (data ++ bs)) evs)
      ((writeScalar value ({ s with pollcnt := 0 }.withSample data)).during text ks bs
        (evs ++ read8Events s.cfg .ba s.cfg.baStatus ++ burstEvents s.cfg reg data.length)) :=
  ((runs_poll_ready hready).trans (runs_burst (min_eq_left hlen).symm .ba (some reg) data.length)).trans
    (runs_cmd hwf (hdecode _ rfl))

/-! ## The five reads (R214 to R219) -/

/-- A read of the sensor that began in `s` has ended in `t` with `w` as its result: `c2` is the last byte it read of
`CTRL_REG1`, and `bus` all that the record holds. -/
def ReturnsResult (s : State) (w : Rat) (c2 : Byte) (bus : List BusEvent) (t : State) : Prop :=
  t.acq = [] ∧ t.ret = some (.number (fl s.cfg.num w)) ∧ t.res0 = some (fl s.cfg.num w) ∧ t.resv = 0b001 ∧
    t.tmo = false ∧ t.flt = s.flt ∧ t.pollcnt = 0 ∧ t.crv = some (setbit c2 s.cfg.baOstBit.val) ∧ t.bus = bus

/-- `readAltitude` and its conversion: trigger, measure, conclude. -/
theorem runs_readAltitude {call : DriverCall} {rest : List HostReq} {tail : List Act} {extra : Nat} {w : Rat}
    {st c1 c2 b0 b1 b2 : Byte} (hacq : s.acq = []) (hhost : s.host = .start call :: rest)
    (htext : textOf s.cfg call = textToggle s.cfg ++ (.pollInit :: .pollRead s.cfg.baRdyAlt ::
      .busRead .ba (some s.cfg.baOutPMsb) 3 false :: cmd .baAlt :: tail))
    (hcounts : s.env.counts = 1 :: 1 :: 1 :: 3 :: ks)
    (hbytes : s.env.bytes = c1 :: c2 :: st :: b0 :: b1 :: b2 :: bs) (hready : st &&& s.cfg.baRdyAlt ≠ 0)
    (htail : Concludes tail (2 + extra) (altValue s.cfg.altFracHigh b0 b1 b2) w) :
    ∃ t, Runs (14 + extra) s t ∧ ReturnsResult s w c2 (s.bus ++ toggleEvents s.cfg c1 c2 ++
      read8Events s.cfg .ba s.cfg.baStatus ++ burstEvents s.cfg s.cfg.baOutPMsb 3) t := by
  have hsteps : 14 + extra = 1 + 6 + 5 + (2 + extra) := by omega
  have htriggered := (runs_start hacq hhost htext hcounts hbytes).trans
    (runs_toggle (s := { s with host := rest }) c1 c2)
  have hmeasured := htriggered.trans
    (runs_measure (s := { s with host := rest, crv := some (setbit c2 s.cfg.baOstBit.val) }) (data := [b0, b1, b2])
      hready (by simp) rfl (decodes_baAlt s.cfg b0 b1 b2) s.cfg.baOutPMsb)
  rw [hsteps]
  refine ⟨_, hmeasured.trans (htail _ _ _ _ rfl rfl), rfl, rfl, rfl, rfl, rfl, rfl, rfl, rfl, ?_⟩
  simp only [State.during, List.append_assoc]
  rfl

theorem length_pos_of_preCheckEvents {c : Cfg} {mask : Byte} {eff : Bool} {first : List Byte} {pre : List BusEvent}
    (hpre : preCheckEvents c mask eff first = some pre) : 0 < first.length := by
  cases first with
  | nil => cases hpre
  | cons => exact Nat.succ_pos _

/-- `readPressure`, `readTemp` and its conversion: pre-check, measure, trigger, conclude. -/
theorem runs_preCheckedRead {call : DriverCall} {rest : List HostReq} {tail : List Act} {extra : Nat} {value w : Rat}
    {mask st c1 c2 reg : Byte} {eff : Bool} {first data : List Byte} {pre : List BusEvent} (hacq : s.acq = [])
    (hhost : s.host = .start call :: rest)
    (htext : textOf s.cfg call = .preCheck mask eff :: .pollInit :: .pollRead mask ::
      .busRead .ba (some reg) data.length false :: cmd i :: (textToggle s.cfg ++ tail))
    (hcounts : s.env.counts = List.replicate first.length 1 ++ 1 :: data.length :: 1 :: 1 :: ks)
    (hbytes : s.env.bytes = first ++ st :: data ++ c1 :: c2 :: bs)
    (hpre : preCheckEvents s.cfg mask eff first = some pre) (hready : st &&& mask ≠ 0)
    (hlen : data.length ≤ 7) (hwf : i.WellFormed) (hdecode : Decodes s.cfg i data value)
    (htail : Concludes tail (2 + extra) value w) :
    ∃ t, Runs (12 + 3 * first.length + extra) s t ∧ ReturnsResult s w c2 (s.bus ++ pre ++
      read8Events s.cfg .ba s.cfg.baStatus ++ burstEvents s.cfg reg data.length ++ toggleEvents s.cfg c1 c2) t := by
  have hfirst := length_pos_of_preCheckEvents hpre
  have hsteps : 12 + 3 * first.length + extra = 1 + (3 * first.length - 2) + 5 + 6 + (2 + extra) := by omega
  rw [List.append_assoc] at hbytes
  obtain ⟨crv, hpreChecked⟩ := runs_preCheck_whole (s := { s with host := rest }) hpre
  have hmeasured := ((runs_start hacq hhost htext hcounts hbytes).trans hpreChecked).trans
    (runs_measure (s := { s with host := rest, crv := crv }) hready hlen hwf hdecode reg)
  have htriggered := hmeasured.trans (runs_toggle c1 c2)
  rw [hsteps]
  refine ⟨_, htriggered.trans (htail _ _ _ _ rfl rfl), rfl, rfl, rfl, rfl, rfl, rfl, rfl, rfl, ?_⟩
  simp only [State.during, List.nil_append, List.append_assoc]
  rfl

theorem concludes_feet (high : Bool) (b0 b1 b2 : Byte) :
    Concludes [.join, cmd .baAltft, .ret .number] 3 (altValue high b0 b1 b2)
      (feetOfMetres (altValue high b0 b1 b2)) :=
  concludes_conversion rfl (fun _ => rfl) (fun n => val_fl_altValue n high b0 b1 b2)
    fun n => isInfinite_fl_altValue n high b0 b1 b2

theorem concludes_fahrenheit (b0 b1 : Byte) :
    Concludes [.join, cmd .baTempf, .ret .number] 3 (baTempValue b0 b1) (fahrenheitOfCelsius (baTempValue b0 b1)) :=
  concludes_conversion rfl (fun _ => rfl) (fun n => val_fl_baTempValue n b0 b1)
    fun n => isInfinite_fl_baTempValue n b0 b1

/-- Settles O53: each decoded value is exact, so its conversion is one rounding of the converted value. -/
theorem barometricReadsReturnTheDecodedValue : Obligations.BarometricReadsReturnTheDecodedValue := by
  unfold Obligations.BarometricReadsReturnTheDecodedValue
  intro s rest call st c1 c2 ks bs hacq hhost
  constructor
  · intro b0 b1 b2 value extra hmem hready hcounts hbytes
    simp only [List.mem_cons, List.not_mem_nil, or_false, Prod.mk.injEq] at hmem
    obtain ⟨rfl, rfl, rfl⟩ | ⟨rfl, rfl, rfl⟩ := hmem
    · exact runs_readAltitude hacq hhost rfl hcounts hbytes hready (concludes_return _)
    · exact runs_readAltitude hacq hhost rfl hcounts hbytes hready (concludes_feet _ b0 b1 b2)
  · intro first data b0 b1 b2 mask reg eff value extra evs hmem hpre hready hcounts hbytes
    simp only [List.mem_cons, List.not_mem_nil, or_false, Prod.mk.injEq] at hmem
    obtain h | h | h := hmem <;> obtain ⟨rfl, rfl, rfl, rfl, rfl, rfl, rfl⟩ := h
    · exact runs_preCheckedRead hacq hhost rfl hcounts hbytes hpre hready (by simp) rfl
        (decodes_baPres s.cfg b0 b1 b2) (concludes_return _)
    · exact runs_preCheckedRead hacq hhost rfl hcounts hbytes hpre hready (by simp) rfl
        (decodes_baTemp s.cfg b0 b1) (concludes_return _)
    · rw [← fahrenheitOfCelsius_eq]
      exact runs_preCheckedRead hacq hhost rfl hcounts hbytes hpre hready (by simp) rfl
        (decodes_baTemp s.cfg b0 b1) (concludes_fahrenheit b0 b1)

end Sys2Proof.Machine
end

section
/-! The bounded poll: it ends whatever the environment answers, and a read that finds nothing ready returns the sentinel
(spec/44_acquisition_sequences.md R213, spec/42_barometric.md R158). -/

namespace Sys2Proof.Machine

variable {s : State} {mask : Byte} {rest : List Act}

/-! ## One turn of the loop (R213) -/

/-- `s` after a status read, with `text` to follow and `env` what the environment has left to answer. -/
def State.polled (s : State) (text : List Act) (env : Env) : State :=
  { s with acq := text, env := env, bus := s.bus ++ read8Events s.cfg .ba s.cfg.baStatus }

/-- What one turn of a poll can end in: ready; the 600th read; another turn; or SHORT. -/
inductive PollTurn (s : State) (mask : Byte) (rest : List Act) : State → Prop
  | ready (env : Env) : PollTurn s mask rest (s.polled rest env)
  | timedOut (env : Env) (hmax : (s.pollcnt + 1).toNat = 600) :
      PollTurn s mask rest { s.polled (cmd .baTmo :: afterReturn rest) env with pollcnt := s.pollcnt + 1 }
  | again (env : Env) (hmax : (s.pollcnt + 1).toNat ≠ 600) :
      PollTurn s mask rest { s.polled (.delay 1 :: .pollRead mask :: rest) env with pollcnt := s.pollcnt + 1 }
  | short (env : Env) : PollTurn s mask rest (stopSequence (raise .short (destOfText rest)
      { s with
        acq := rest, env := env
        bus := s.bus ++ (addressPhase s.cfg .ba s.cfg.baStatus ++ [.requestRead s.cfg.baAddr 1]) }))

/-- A one-byte read, whatever the environment answers: a byte, or SHORT. -/
theorem withRead8_traffic (dev : Dev) (reg : Byte) (f : Byte → State → State) (s : State) :
    (∃ b env, withRead8 dev reg f s = f b { s with env := env, bus := s.bus ++ read8Events s.cfg dev reg }) ∨
      ∃ env, withRead8 dev reg f s = stopSequence (raise .short (destOfText s.acq) { s with
        env := env, bus := s.bus ++ (addressPhase s.cfg dev reg ++ [.requestRead (devAddr s.cfg dev) 1]) }) := by
  unfold withRead8 busRead8
  split
  next b t hread =>
    split at hread <;> cases hread
    exact .inl ⟨_, _, rfl⟩
  next t hread =>
    split at hread <;> cases hread
    exact .inr ⟨_, rfl⟩

theorem step_pollRead (hacq : s.acq = .pollRead mask :: rest) : ∃ t, step s = .next t ∧ PollTurn s mask rest t := by
  refine ⟨_, step_of_act hacq, ?_⟩
  unfold actPollRead
  rcases withRead8_traffic .ba s.cfg.baStatus _ { s with acq := rest } with ⟨b, env, hread⟩ | ⟨env, hread⟩
  · rw [hread]
    split
    · exact .ready env
    · split
      next hmax => exact .timedOut env hmax
      next hmax => exact .again env hmax
  · rw [hread]
    exact .short env

/-! ## The whole poll -/

theorem pollcnt_succ {c : BitVec 10} (h : c.toNat < 600) : (c + 1).toNat = c.toNat + 1 := by
  rw [BitVec.toNat_add_of_lt (by simp; omega)]
  rfl

/-- How many delays of one millisecond a record holds; in a poll these stand between the status reads. -/
def oneMsDelays (evs : List BusEvent) : Nat := evs.countP fun e => e == .delay 1

theorem oneByteRequests_append (c : Cfg) (evs new : List BusEvent) :
    oneByteRequests c (evs ++ new) = oneByteRequests c evs + oneByteRequests c new := List.countP_append

theorem oneMsDelays_append (evs new : List BusEvent) :
    oneMsDelays (evs ++ new) = oneMsDelays evs + oneMsDelays new := List.countP_append

theorem oneByteRequests_read8Events (c : Cfg) (reg : Byte) : oneByteRequests c (read8Events c .ba reg) = 1 := by
  simp [oneByteRequests, read8Events, devAddr]

theorem oneByteRequests_request (c : Cfg) (reg : Byte) :
    oneByteRequests c (addressPhase c .ba reg ++ [.requestRead c.baAddr 1]) = 1 := by
  simp [oneByteRequests, addressPhase]

theorem oneMsDelays_read8Events (c : Cfg) (dev : Dev) (reg : Byte) : oneMsDelays (read8Events c dev reg) = 0 := by
  simp [oneMsDelays, read8Events]

/-- How a poll ends that begins in `s` with at most `n` status reads to make. -/
def PollEnds (s : State) (rest : List Act) (n : Nat) (t : State) : Prop :=
  oneByteRequests s.cfg t.bus ≤ oneByteRequests s.cfg s.bus + n ∧
    ((t.acq = rest ∧ t.pollcnt.toNat < 600) ∨
      (t.acq = cmd .baTmo :: afterReturn rest ∧ t.pollcnt.toNat = 600 ∧
        oneByteRequests s.cfg t.bus = oneByteRequests s.cfg s.bus + n ∧
        oneMsDelays t.bus + 1 = oneMsDelays s.bus + n) ∨
      (t.acq = [] ∧ t.ret = some .nothing ∧ t.flt = s.flt ||| 0b0001))

/-- A turn of the loop that does not end it, with the delay before the next one. -/
theorem PollEnds.of_next {n : Nat} {t u : State} (hcfg : u.cfg = s.cfg) (hflt : u.flt = s.flt)
    (hbus : u.bus = s.bus ++ read8Events s.cfg .ba s.cfg.baStatus ++ [.delay 1]) (h : PollEnds u rest n t) :
    PollEnds s rest (n + 1) t := by
  obtain ⟨hle, hend⟩ := h
  have hreads : oneByteRequests s.cfg u.bus = oneByteRequests s.cfg s.bus + 1 := by
    rw [hbus, oneByteRequests_append, oneByteRequests_append, oneByteRequests_read8Events]
    rfl
  have hdelays : oneMsDelays u.bus = oneMsDelays s.bus + 1 := by
    rw [hbus, oneMsDelays_append, oneMsDelays_append, oneMsDelays_read8Events]
    rfl
  rw [hcfg, hreads] at hle hend
  rw [hflt, hdelays] at hend
  refine ⟨by omega, ?_⟩
  rcases hend with hready | ⟨hacq, hcnt, hall, hms⟩ | hshort
  · exact .inl hready
  · exact .inr (.inl ⟨hacq, hcnt, by omega, by omega⟩)
  · exact .inr (.inr hshort)

/-- A turn with `n + 1` status reads to go ends the poll, or there is one read less to go. -/
theorem PollTurn.ends_or_again {n : Nat} {t : State} (hcnt : s.pollcnt.toNat + (n + 1) = 600)
    (hturn : PollTurn s mask rest t) :
    PollEnds s rest (n + 1) t ∨ ∃ m env, n = m + 1 ∧
      t = { s.polled (.delay 1 :: .pollRead mask :: rest) env with pollcnt := s.pollcnt + 1 } := by
  have hnext := pollcnt_succ (c := s.pollcnt) (by omega)
  have hreads : oneByteRequests s.cfg (s.bus ++ read8Events s.cfg .ba s.cfg.baStatus) =
      oneByteRequests s.cfg s.bus + 1 := by
    rw [oneByteRequests_append, oneByteRequests_read8Events]
  cases hturn with
  | ready env =>
    have hlt : s.pollcnt.toNat < 600 := by omega
    exact .inl ⟨hreads.le.trans (by omega), .inl ⟨rfl, hlt⟩⟩
  | timedOut env hmax =>
    obtain rfl : n = 0 := by omega
    refine .inl ⟨hreads.le, .inr (.inl ⟨rfl, hmax, hreads, ?_⟩)⟩
    exact congrArg (· + 1) ((oneMsDelays_append _ _).trans (congrArg _ (oneMsDelays_read8Events _ _ _)))
  | again env hmax =>
    obtain ⟨m, rfl⟩ := Nat.exists_eq_succ_of_ne_zero (n := n) (by omega)
    exact .inr ⟨m, env, rfl, rfl⟩
  | short env =>
    refine .inl ⟨?_, .inr (.inr ⟨rfl, rfl, rfl⟩)⟩
    rw [stopSequence_bus, raise_bus, oneByteRequests_append, oneByteRequests_request]
    omega

/-- From a loop with `n + 1` status reads to go the poll ends. -/
theorem runs_pollRead {n : Nat} (hcnt : s.pollcnt.toNat + (n + 1) = 600) (hacq : s.acq = .pollRead mask :: rest) :
    ∃ k t, k ≤ 2 * n + 1 ∧ Runs k s t ∧ PollEnds s rest (n + 1) t := by
  induction n generalizing s with
  | zero =>
    obtain ⟨t, hstep, hturn⟩ := step_pollRead hacq
    rcases hturn.ends_or_again hcnt with hends | ⟨m, env, hm, -⟩
    · exact ⟨1, t, le_rfl, .of_step hstep, hends⟩
    · cases hm
  | succ n ih =>
    obtain ⟨t, hstep, hturn⟩ := step_pollRead hacq
    rcases hturn.ends_or_again hcnt with hends | ⟨m, env, -, rfl⟩
    · exact ⟨1, t, by omega, .of_step hstep, hends⟩
    · have hnext := pollcnt_succ (c := s.pollcnt) (by omega)
      have hleft : (s.pollcnt + 1).toNat + (n + 1) = 600 := by omega
      obtain ⟨k, t, hk, hrun, hends⟩ := ih
        (s := emit [.delay 1] { s.polled (.pollRead mask :: rest) env with pollcnt := s.pollcnt + 1 }) hleft rfl
      exact ⟨k + 1 + 1, t, by omega, .cons hstep (.cons rfl hrun), hends.of_next (by rfl) (by rfl) (by rfl)⟩

/-- Settles O51: the loop is entered with the count 0, so with 600 status reads to go. -/
theorem pollEndsWithinSixHundredReads : Obligations.PollEndsWithinSixHundredReads := by
  unfold Obligations.PollEndsWithinSixHundredReads
  intro s mask rest hacq
  have hinit : Runs 1 s { s with acq := .pollRead mask :: rest, pollcnt := 0 } := .of_step (step_of_act hacq)
  obtain ⟨k, t, hk, hrun, hle, hend⟩ := runs_pollRead (n := 599)
    (s := { s with acq := .pollRead mask :: rest, pollcnt := 0 }) rfl rfl
  refine ⟨1 + k, t, by omega, hinit.trans hrun, hle, ?_⟩
  rcases hend with hready | ⟨htext, hcnt, hreads, hdelays⟩ | hshort
  · exact .inl hready
  · exact .inr (.inl ⟨htext, hcnt, hreads, Nat.succ_injective hdelays⟩)
  · exact .inr (.inr hshort)

/-! ## A poll that finds no conversion ready (R213, R158) -/

variable {text : List Act} {ks : List Nat} {bs : List Byte} {evs : List BusEvent}

theorem not_ready {st : Byte} (hst : st &&& mask = 0) : ¬ ready st mask = true := by
  rw [ready_eq_false.2 hst]
  exact Bool.false_ne_true

/-- The last of the status reads that find the ready bit clear: the timeout path of the calling text follows. -/
theorem runs_pollRead_last {st : Byte} (hst : st &&& mask = 0) (hcnt : s.pollcnt.toNat + 1 = 600) :
    Runs 1 (s.during (.pollRead mask :: text) (1 :: ks) (st :: bs) evs)
      ({ s with pollcnt := 600 }.during (cmd .baTmo :: afterReturn text) ks bs
        (evs ++ read8Events s.cfg .ba s.cfg.baStatus)) := by
  have hnext : (s.pollcnt + 1).toNat = 600 := (pollcnt_succ (by omega)).trans hcnt
  have hmax : s.pollcnt + 1 = 600 := BitVec.eq_of_toNat_eq hnext
  rw [← hmax]
  exact .of_read8 rfl ((if_neg (not_ready hst)).trans (if_pos hnext))

/-- Any other of them: a delay and another turn. -/
theorem runs_pollRead_again {st : Byte} (hst : st &&& mask = 0) (hcnt : s.pollcnt.toNat + 1 < 600) :
    Runs 2 (s.during (.pollRead mask :: text) (1 :: ks) (st :: bs) evs)
      ({ s with pollcnt := s.pollcnt + 1 }.during (.pollRead mask :: text) ks bs
        (evs ++ read8Events s.cfg .ba s.cfg.baStatus ++ [BusEvent.delay 1])) := by
  have hmax : (s.pollcnt + 1).toNat ≠ 600 := by rw [pollcnt_succ (by omega)]; omega
  have hread : Runs 1 (s.during (.pollRead mask :: text) (1 :: ks) (st :: bs) evs)
      ({ s with pollcnt := s.pollcnt + 1 }.during (.delay 1 :: .pollRead mask :: text) ks bs
        (evs ++ read8Events s.cfg .ba s.cfg.baStatus)) :=
    .of_read8 rfl ((if_neg (not_ready hst)).trans (if_neg hmax))
  exact hread.trans (runs_delay 1)

theorem runs_pollRead_timeout {sts : List Byte} {n : Nat} (hlen : sts.length = n + 1)
    (hcnt : s.pollcnt.toNat + (n + 1) = 600) (hclear : ∀ st ∈ sts, st &&& mask = 0) :
    ∃ evs', Runs (2 * n + 1)
      (s.during (.pollRead mask :: text) (List.replicate (n + 1) 1 ++ ks) (sts ++ bs) evs)
      ({ s with pollcnt := 600 }.during (cmd .baTmo :: afterReturn text) ks bs evs') := by
  induction n generalizing s sts evs with
  | zero =>
    obtain ⟨st, rfl⟩ := List.length_eq_one_iff.1 hlen
    exact ⟨_, runs_pollRead_last (hclear st List.mem_cons_self) hcnt⟩
  | succ n ih =>
    obtain ⟨st, sts, rfl⟩ := List.exists_cons_of_length_eq_add_one hlen
    have hnext := pollcnt_succ (c := s.pollcnt) (by omega)
    have hleft : (s.pollcnt + 1).toNat + (n + 1) = 600 := by omega
    obtain ⟨evs', hrest⟩ := ih (s := { s with pollcnt := s.pollcnt + 1 }) (sts := sts)
      (evs := evs ++ read8Events s.cfg .ba s.cfg.baStatus ++ [.delay 1]) (Nat.succ_injective hlen) hleft
      fun b hb => hclear b (List.mem_cons_of_mem _ hb)
    have hread := runs_pollRead_again (s := s) (text := text) (ks := List.replicate (n + 1) 1 ++ ks)
      (bs := sts ++ bs) (evs := evs) (hclear st List.mem_cons_self) (by omega)
    refine ⟨evs', ?_⟩
    rw [show 2 * (n + 1) + 1 = 2 + (2 * n + 1) by omega]
    exact hread.trans hrest

/-- A whole poll of 600 reads that find nothing ready, BA.TMO, and the return of the sentinel. -/
theorem runs_poll_sentinel {sts : List Byte} (hlen : sts.length = 600) (hclear : ∀ st ∈ sts, st &&& mask = 0)
    (htext : afterReturn text = [.join, .ret .number]) :
    ∃ evs', Runs 1203
      (s.during (.pollInit :: .pollRead mask :: text) (List.replicate 600 1 ++ ks) (sts ++ bs) evs)
      ({ { writeScalar (-999) { s with pollcnt := 600 } with tmo := true } with
        ret := some (.number (fl s.cfg.num (-999))) }.during [] ks bs evs') := by
  obtain ⟨evs', hpoll⟩ := runs_pollRead_timeout (s := { s with pollcnt := 0 }) (text := text) (ks := ks) (bs := bs)
    (evs := evs) hlen rfl hclear
  rw [htext] at hpoll
  have hinit : Runs 1 (s.during (.pollInit :: .pollRead mask :: text) (List.replicate 600 1 ++ ks) (sts ++ bs) evs)
      ({ s with pollcnt := 0 }.during (.pollRead mask :: text) (List.replicate 600 1 ++ ks) (sts ++ bs) evs) :=
    .of_act rfl
  have htimedOut := (hinit.trans hpoll).trans (runs_cmd (i := .baTmo) rfl rfl)
  exact ⟨evs', htimedOut.trans (runs_join.trans (runs_ret (returnValue_number resvScalar_valid rfl)))⟩

/-- `head`, what a read of the sensor does before its poll, reads exactly the bytes of `first`, in at most 7 steps, and
changes no register but `CRV`. -/
def Prologue (c : Cfg) (head : List Act) (first : List Byte) : Prop :=
  ∀ (s : State), s.cfg = c → ∀ (text : List Act) (ks : List Nat) (bs : List Byte), ∃ n crv evs, n ≤ 7 ∧
    Runs n (s.during (head ++ text) (List.replicate first.length 1 ++ ks) (first ++ bs) [])
      ({ s with crv := crv }.during text ks bs evs)

theorem prologue_toggle (c : Cfg) {first : List Byte} (h : first.length = 2) : Prologue c (textToggle c) first := by
  rintro s rfl text ks bs
  obtain ⟨c1, c2, rfl⟩ := List.length_eq_two.1 h
  exact ⟨6, _, _, by omega, runs_toggle c1 c2⟩

theorem prologue_preCheck {c : Cfg} {mask : Byte} {eff : Bool} {first : List Byte} {pre : List BusEvent}
    (hpre : preCheckEvents c mask eff first = some pre) (h : first.length ≤ 3) :
    Prologue c [.preCheck mask eff] first := by
  rintro s rfl text ks bs
  obtain ⟨crv, hrun⟩ := runs_preCheck_whole (text := text) (ks := ks) (bs := bs) (evs := []) hpre
  exact ⟨_, crv, _, by omega, hrun⟩

theorem preCheckEvents_of_skip (c : Cfg) {mask st : Byte} {eff : Bool} (h : ¬(eff = true ∧ st &&& mask = 0)) :
    preCheckEvents c mask eff [st] = some (read8Events c .ba c.baStatus) := if_neg h

theorem preCheckEvents_of_trigger (c : Cfg) {mask st : Byte} {eff : Bool} (h : eff = true ∧ st &&& mask = 0)
    (c1 c2 : Byte) : preCheckEvents c mask eff [st, c1, c2] =
      some (read8Events c .ba c.baStatus ++ toggleEvents c c1 c2) := if_pos h

/-- Settles O52: each read comes to its poll with the 600 bytes left, and the timeout path skips what follows the
poll. -/
theorem timedOutReadsReturnTheSentinel : Obligations.TimedOutReadsReturnTheSentinel := by
  unfold Obligations.TimedOutReadsReturnTheSentinel
  intro s rest call mask first sts more ks hacq hhost hcall hlen hclear hcounts hbytes
  obtain ⟨head, text, htext, hafter, hhead⟩ : ∃ head text,
      textOf s.cfg call = head ++ .pollInit :: .pollRead mask :: text ∧
      afterReturn text = [.join, .ret .number] ∧ Prologue s.cfg head first := by
    obtain ⟨rfl, rfl, hfirst⟩ | ⟨rfl, rfl, heff, hfirst⟩ | ⟨rfl, rfl, heff, hfirst, st, cs, rfl, hst⟩ := hcall
    · exact ⟨textToggle s.cfg, _, rfl, rfl, prologue_toggle s.cfg hfirst⟩
    · obtain ⟨st, rfl⟩ := List.length_eq_one_iff.1 hfirst
      have hskip : ¬(s.cfg.presPrecheckEffective = true ∧ st &&& 0x04 = 0) := by simp [heff]
      exact ⟨[.preCheck 0x04 s.cfg.presPrecheckEffective], _, rfl, rfl,
        prologue_preCheck (preCheckEvents_of_skip s.cfg hskip) (by simp)⟩
    · obtain ⟨c1, c2, rfl⟩ := List.length_eq_two.1 (Nat.succ_injective hfirst)
      exact ⟨[.preCheck s.cfg.baRdyTemp s.cfg.tempPrecheckEffective], _, rfl, rfl,
        prologue_preCheck (preCheckEvents_of_trigger s.cfg ⟨heff, hst⟩ c1 c2) (by simp)⟩
  rw [← List.replicate_append_replicate, List.append_assoc] at hcounts
  rw [List.append_assoc] at hbytes
  have hstart := runs_start hacq hhost htext hcounts hbytes
  obtain ⟨n, crv, evs, hn, hbefore⟩ := hhead { s with host := rest } rfl (.pollInit :: .pollRead mask :: text)
    (List.replicate 600 1 ++ ks) (sts ++ more)
  obtain ⟨evs', hpoll⟩ := runs_poll_sentinel (s := { s with host := rest, crv := crv }) (ks := ks) (bs := more)
    (evs := evs) hlen hclear hafter
  exact ⟨_, _, by omega, (hstart.trans hbefore).trans hpoll, rfl, rfl, rfl, rfl, rfl, rfl⟩

end Sys2Proof.Machine
end

section
/-! How a command ends: with a next state always, and what it raises, command by command, in the order in which its
causes are tested (spec/60_exceptions.md R241 to R252). -/

namespace Sys2Proof.Machine

variable {s : State} {i : Instr}

/-! ## The end of a command (R241, R252) -/

/-- Settles O32: the end of a command is its writes or its recorded fault, and neither stops DP. -/
theorem everyCommandEndsInANextState : Obligations.EveryCommandEndsInANextState := by
  unfold Obligations.EveryCommandEndsInANextState
  intro i s
  cases h : command i s with
  | ok t => exact ⟨t, exec_of_ok h⟩
  | error c => exact ⟨raise c (destOf i) s, exec_of_error h⟩

theorem destOf_eq_res :
    ∀ i ∈ [Instr.htTemp, .htHum, .gyEvent, .gyMeta, .baAlt, .baPres, .baTemp], destOf i = .res := by decide

theorem destOf_eq_res0 : ∀ i ∈ [Instr.baAltft, .baTempf], destOf i = .res0 := by decide

theorem destOf_eq_resb (hi : writesResb i) : destOf i = .resb := by
  rcases hi with rfl | ⟨r, rfl⟩ <;> rfl

theorem raisedBy_baTmo : raisedBy .baTmo s = none := rfl

/-- Settles O33: the fault is recorded with the destination of the command's group, and BA.TMO raises none. -/
theorem raisedFaultWritesOnlyItsBitAndValidBit : Obligations.RaisedFaultWritesOnlyItsBitAndValidBit := by
  unfold Obligations.RaisedFaultWritesOnlyItsBitAndValidBit
  intro i s c h
  have hexec (d : Dest) (hd : destOf i = d) : exec i s = .next (raise c d s) := hd ▸ exec_of_raisedBy h
  refine ⟨fun hi => hexec .res (destOf_eq_res i hi), fun hi => hexec .res0 (destOf_eq_res0 i hi),
    fun hi => hexec .resb (destOf_eq_resb hi), fun hi => hexec .none (destOf_of_cr hi), ?_⟩
  rintro rfl
  cases raisedBy_baTmo.symm.trans h

/-! ## Commands that raise nothing (R22, R23) -/

/-- The buffer holds a sample of `n` bytes. -/
structure FullSample (s : State) (n : Nat) : Prop where
  inv : s.sampleInv
  count : s.sbcnt.toNat = n

section Sample
variable {n : Nat} (hs : FullSample s n)
include hs

theorem FullSample.count_ok {k : Unit → Except FaultCode State} (hk : ∃ t, k () = .ok t) :
    ∃ t, (needCount n s >>= k) = .ok t := by
  rw [needCount_of_eq hs.count]
  exact hk

theorem FullSample.byte_ok {j : Fin 7} {k : Byte → Except FaultCode State} (hk : ∀ b, ∃ t, k b = .ok t)
    (hj : j.val < n := by decide) : ∃ t, (sample j s >>= k) = .ok t := by
  obtain ⟨b, hb⟩ := Option.isSome_iff_exists.1 ((hs.inv j).2 (hs.count ▸ hj))
  rw [sample_of_some hb]
  exact hk b

/-- The count is all that can be wrong with a sample. -/
theorem FullSample.command_ok (hn : expectedCount i = some n) (hi : i ≠ .gyEvent) : ∃ t, command i s = .ok t := by
  cases i
  case htInitchk =>
    cases hn
    exact hs.count_ok (hs.byte_ok fun _ => ⟨_, rfl⟩)
  case gyBegin r =>
    cases hn
    refine hs.count_ok (hs.byte_ok fun b => ?_)
    split <;> exact ⟨_, rfl⟩
  case htTemp | htHum | baTemp =>
    cases hn
    exact hs.count_ok (hs.byte_ok fun _ => hs.byte_ok fun _ => ⟨_, rfl⟩)
  case baAlt | baPres =>
    cases hn
    exact hs.count_ok (hs.byte_ok fun _ => hs.byte_ok fun _ => hs.byte_ok fun _ => ⟨_, rfl⟩)
  case gyEvent => exact absurd rfl hi
  all_goals cases hn

end Sample

theorem command_gyEvent_ok {now : Tick} (hs : FullSample s 7) (hinv : s.gyroInv) (hgy : s.gyst = .active)
    (hticks : s.ticks = some now) : ∃ t, command .gyEvent s = .ok t := by
  obtain ⟨hrange, -⟩ := hinv
  obtain ⟨r, hr⟩ := Option.isSome_iff_exists.1 (hrange.1 hgy)
  rw [command, commandGyEvent, needActive_of_active hgy, hticks, hr]
  exact hs.count_ok <| hs.byte_ok fun _ => hs.byte_ok fun _ => hs.byte_ok fun _ => hs.byte_ok fun _ =>
    hs.byte_ok fun _ => hs.byte_ok fun _ => ⟨_, rfl⟩

/-! ## What each command raises (R242 to R245, R251) -/

theorem raisedBy_of_ok (h : ∃ t, command i s = .ok t) : raisedBy i s = none := by
  obtain ⟨t, ht⟩ := h
  rw [raisedBy, ht]

theorem raisedBy_of_error {c : FaultCode} (h : command i s = .error c) : raisedBy i s = some c := by
  rw [raisedBy, h]

theorem raisedBy_of_count {n : Nat} (hinv : s.sampleInv) (hn : expectedCount i = some n) (hi : i ≠ .gyEvent) :
    raisedBy i s = if s.sbcnt.toNat = n then none else some .short := by
  split
  case isTrue hcount => exact raisedBy_of_ok (FullSample.command_ok ⟨hinv, hcount⟩ hn hi)
  case isFalse hcount => exact raisedBy_short_of_wrong_count hn (fun h => absurd h hi) hcount

/-- NOTCFG, then SHORT, then NOVALUE (R251). -/
theorem raisedBy_gyEvent (hsample : s.sampleInv) (hgyro : s.gyroInv) : raisedBy .gyEvent s =
    if s.gyst = .uninitialized then some .notcfg
    else if s.sbcnt.toNat = 7 then if s.ticks = none then some .novalue else none
    else some .short := by
  cases hgy : s.gyst with
  | uninitialized => exact raisedBy_gyEvent_of_uninitialized hgy
  | active =>
    rw [if_neg nofun]
    split
    case isFalse hcount => exact raisedBy_short_of_wrong_count rfl (fun _ => hgy) hcount
    case isTrue hcount =>
      cases hticks : s.ticks with
      | none =>
        apply raisedBy_of_error
        rw [command, commandGyEvent, needActive_of_active hgy, needCount_of_eq hcount, hticks]
        rfl
      | some now => exact raisedBy_of_ok (command_gyEvent_ok ⟨hsample, hcount⟩ hgyro hgy hticks)

theorem raisedBy_gyMeta (hinv : s.gyroInv) :
    raisedBy .gyMeta s = if s.gyst = .uninitialized then some .notcfg else none := by
  cases hgy : s.gyst with
  | uninitialized =>
    apply raisedBy_of_error
    rw [command, commandGyMeta, needActive_of_uninitialized hgy]
    rfl
  | active =>
    obtain ⟨hrange, -⟩ := hinv
    obtain ⟨r, hr⟩ := Option.isSome_iff_exists.1 (hrange.1 hgy)
    exact raisedBy_of_ok ⟨_, command_gyMeta_of_active hgy hr⟩

theorem raisedBy_conversion (hinv : s.resultInv) {g : Rat → Rat} (hi : command i s = convertRes0 g s) :
    raisedBy i s = if s.resv.getLsbD 0 = false then some .novalue else none := by
  cases hv : s.resv.getLsbD 0 with
  | false => exact raisedBy_of_error (hi.trans (convertRes0_of_invalid g hv))
  | true =>
    obtain ⟨hres0, -⟩ := hinv
    obtain ⟨r, hr⟩ := Option.isSome_iff_exists.1 (hres0 hv)
    exact raisedBy_of_ok ⟨_, hi.trans (convertRes0_of_ok (needRes0_of_valid hv hr))⟩

theorem raisedBy_cr (hi : i.family = .cr) : raisedBy i s = if s.crv = none then some .novalue else none := by
  cases hc : s.crv with
  | none => exact raisedBy_of_error ((command_of_cr hi s).trans (transformCrv_of_none hc))
  | some c => exact raisedBy_of_ok ⟨_, command_cr_of_some hi hc⟩

/-- Settles O35: the causes are read off what each command raises. -/
theorem notcfgAndNovalueHaveTheseCauses : Obligations.NotcfgAndNovalueHaveTheseCauses := by
  unfold Obligations.NotcfgAndNovalueHaveTheseCauses
  intro i s hinv
  obtain ⟨hsample, hgyro, hresult⟩ := hinv
  cases i with
  | htInitchk | htTemp | htHum | gyBegin | baAlt | baPres | baTemp =>
    rw [raisedBy_of_count hsample rfl (by simp)]
    split <;> simp [Instr.family]
  | gyEvent =>
    rw [raisedBy_gyEvent hsample hgyro]
    cases s.gyst with
    | uninitialized => simp [Instr.family]
    | active => split_ifs <;> simp [Instr.family, *]
  | gyMeta =>
    rw [raisedBy_gyMeta hgyro]
    split <;> simp [Instr.family, *]
  | baTmo => simp [raisedBy_baTmo, Instr.family]
  | baAltft | baTempf =>
    rw [raisedBy_conversion hresult rfl]
    cases s.resv.getLsbD 0 <;> simp [Instr.family]
  | crModebar | crModealt | crStandby | crActive | crOsr | crOstclr | crOstset | crEvflags =>
    rw [raisedBy_cr rfl]
    cases s.crv <;> simp [Instr.family]

end Sys2Proof.Machine
end

section
/-! A step with no sequence running: waiting, and the start of a sequence (spec/70_reset_and_hazards.md R272, R283;
spec/44_acquisition_sequences.md R200). -/

namespace Sys2Proof.Machine

theorem step_of_start {s : State} {call : DriverCall} {rest : List HostReq} (hacq : s.acq = [])
    (hhost : s.host = .start call :: rest) : step s = .next { s with host := rest, acq := textOf s.cfg call } :=
  step_of_request hacq hhost

/-- Settles O8: an idle ACQ leaves the step to the host's requests: none, and it waits; a start, and the text is
loaded. -/
theorem idleMachineWaitsAndStartsSequences : Obligations.IdleMachineWaitsAndStartsSequences := by
  unfold Obligations.IdleMachineWaitsAndStartsSequences
  exact fun s hacq => ⟨step_of_idle hacq, fun call rest hhost => step_of_start hacq hhost⟩

end Sys2Proof.Machine
end
